-- ==== Sys2Proof/Word.lean ====
section
/-! DEFINITION. The words of SRTX (spec 00_scope.md rule R10): a byte is 8 bits, a command word 12 bits (30_encoding.md
rule R80), a byte count 9 bits (10_state.md rules R24, R26). Every quantity of the block is unsigned; addition on `Byte`
is the `+8` of rule R10, addition modulo 256. -/

namespace Sys2Proof

/-- A byte, an unsigned number 0 to 255 (R10). -/
abbrev Byte := BitVec 8

/-- A command word `op[3:0] ∥ d[7:0]` (R80). -/
abbrev CmdWord := BitVec 12

/-- A count of buffer bytes, the width of `TXCNT` and `PB_LEN` (R24, R26). -/
abbrev Count := BitVec 9

/-- A byte sequence of the wire format, in transmission order (R62, R86). -/
abbrev Packet := List Byte

end Sys2Proof
end

