-- ==== Sys2Proof/Config.lean ====
section
/-! DEFINITION. The configuration record (spec 00_scope.md rules R7, R8), the record of one input sample (10_state.md rule
R34), and the free values. A parameter the spec leaves OPEN, and a value the spec leaves open, is a constant without a body:
no proof can see what it is, so a statement about it holds for every admissible value. -/

namespace Sys2Proof

/-- The parameters a session reads (R7). They are fixed at construction and are not state (R20, R36). -/
structure Params where
  /-- `PRE_TICKS`, the length of the PRE phase. -/
  preTicks  : Nat
  /-- `POST_TICKS`, the length of the POST phase. -/
  postTicks : Nat
  /-- `FLUSH_TMO`: 0 leaves FLUSH unbounded, n > 0 bounds it to n ticks. -/
  flushTmo  : Nat
deriving DecidableEq, Repr

/-- The type constraints of R7: both guard counts are at least 1. -/
def Params.wf (P : Params) : Bool := decide (1 ≤ P.preTicks) && decide (1 ≤ P.postTicks)

/-- The largest value the guard timer is loaded with. -/
def Params.maxLoad (P : Params) : Nat := max P.preTicks (max P.postTicks P.flushTmo)

/-- `GT_W` of R7: the least w with `2^w > max(PRE_TICKS, POST_TICKS, FLUSH_TMO)`. -/
def Params.gtW (P : Params) : Nat := if P.maxLoad = 0 then 0 else Nat.log2 P.maxLoad + 1

/-- The input ports sampled at one tick, other than the clock itself (R34). -/
structure Inputs where
  /-- synchronous reset, active at 1 -/
  rst      : Bool
  /-- the host presents a command -/
  cmdValid : Bool
  /-- the command word presented -/
  cmd      : CmdWord
  /-- the channel can take a byte at this tick -/
  chReady  : Bool
  /-- the channel has completely sent every byte it was given -/
  chIdle   : Bool
  /-- the channel reports a write or flush failure at this tick -/
  chFault  : Bool
  /-- the channel's code for that failure, opaque (R84, R177) -/
  chFcode  : Byte
deriving DecidableEq, Repr, Inhabited

/-- The fixed format of the serial link, a property of the channel and not of SRTX (R7). -/
structure SerialFormat where
  baud       : Nat
  dataBits   : Nat
  parityBits : Nat
  stopBits   : Nat
deriving DecidableEq, Repr

namespace Config

/-- `T_GUARD_PRE` of R7, in milliseconds. -/
def tGuardPreMs : Nat := 10

/-- `T_GUARD_POST` of R7, in milliseconds. -/
def tGuardPostMs : Nat := 10

/-- The serial format of R7: 9600 baud, 8 data bits, no parity, 1 stop bit. -/
def serialFormat : SerialFormat := ⟨9600, 8, 0, 1⟩

/-- One less than the numerator of `T_TICK` (OPEN). -/
opaque tTickNumPred : Nat

/-- One less than the denominator of `T_TICK` (OPEN). -/
opaque tTickDenPred : Nat

/-- `T_TICK` is `tTickNum / tTickDen` milliseconds, a positive duration (R7; log entry 1). -/
def tTickNum : Nat := tTickNumPred + 1

/-- See `tTickNum`. -/
def tTickDen : Nat := tTickDenPred + 1

/-- The least tick count whose duration is at least `guardMs` milliseconds: `ceil(guardMs / T_TICK)` (R8). -/
def leastTicks (guardMs num den : Nat) : Nat := (guardMs * den + num - 1) / num

/-- By how much `PRE_TICKS` exceeds R8's recommended least count (OPEN). -/
opaque preExtra : Nat

/-- By how much `POST_TICKS` exceeds R8's recommended least count (OPEN). -/
opaque postExtra : Nat

/-- `PRE_TICKS`: any count that meets R8. -/
def preTicks : Nat := leastTicks tGuardPreMs tTickNum tTickDen + preExtra

/-- `POST_TICKS`: any count that meets R8. -/
def postTicks : Nat := leastTicks tGuardPostMs tTickNum tTickDen + postExtra

/-- `FLUSH_TMO` (OPEN; the spec's default 0 is one of its values). -/
opaque flushTmo : Nat

/-- The configuration this machine is built with. -/
def params : Params := ⟨preTicks, postTicks, flushTmo⟩

/-- `DE_ACTIVE_LEVEL` (OPEN): the level on the direction pin that means "transmit" (R7, R22). -/
opaque deActiveLevel : Bool

/-- `DIAG_BANNER` (OPEN): the banner text of the host's diagnostic sequence (44_host_encoder.md rule R231). -/
opaque diagBanner : List Byte

/-- `DIAG_FIRST_INDEX` (OPEN): the first counter value of the host's diagnostic sequence (R231). -/
opaque diagFirstIndex : Nat

/-- FREE VALUE: what buffer byte `a` holds while nothing has been written to it since power-up (R25, R282; log entry 3). -/
opaque powerUpByte : Nat → Byte

/-- FREE VALUE: the inputs sampled at the n-th tick for which no sample was queued (log entry 5). -/
opaque freeInputs : Nat → Inputs

end Config

end Sys2Proof
end

