-- ==== Sys2Proof/Syntax.lean ====
section
/-! DEFINITION. The instructions of SRTX, one constructor for each row of spec/opcode_table.json: the sixteen codes of the
command word (30_encoding.md rules R80 to R83) and the four wire packet forms (rules R86, R91, R93, R94). Every command
keeps its operand byte `d`, also where the command ignores it (R81), so that no bit of the word is lost. -/

namespace Sys2Proof

/-- A host command or a wire packet form (00_scope.md, opening). -/
inductive Instr where
  /-- `NOP` (R210) -/
  | nop (d : Byte)
  /-- `CS.CLR` (R110) -/
  | csClr (d : Byte)
  /-- `CS.ADD d` (R111) -/
  | csAdd (d : Byte)
  /-- `PB.CLR` (R130) -/
  | pbClr (d : Byte)
  /-- `PB.PUSH d` (R131) -/
  | pbPush (d : Byte)
  /-- `PK.PUSH d` (R132) -/
  | pkPush (d : Byte)
  /-- `PK.FIN` (R133) -/
  | pkFin (d : Byte)
  /-- `TX.SEND` (R160) -/
  | txSend (d : Byte)
  /-- `ST.CLR` (R211) -/
  | stClr (d : Byte)
  /-- reserved operation code 0x9 (R83, R212) -/
  | reserved9 (d : Byte)
  /-- reserved operation code 0xA (R83, R212) -/
  | reservedA (d : Byte)
  /-- reserved operation code 0xB (R83, R212) -/
  | reservedB (d : Byte)
  /-- reserved operation code 0xC (R83, R212) -/
  | reservedC (d : Byte)
  /-- reserved operation code 0xD (R83, R212) -/
  | reservedD (d : Byte)
  /-- reserved operation code 0xE (R83, R212) -/
  | reservedE (d : Byte)
  /-- reserved operation code 0xF (R83, R212) -/
  | reservedF (d : Byte)
  /-- `PKT`: a wire packet of type `t` and body `body`; its length and checksum bytes are computed (R86 to R90) -/
  | pkt (t : Byte) (body : List Byte)
  /-- `PKT.M.FRAG`: the message fragment packet with 1-based index `k` and text bytes `text` (R91, R92) -/
  | pktMFrag (k : BitVec 4) (text : List Byte)
  /-- `PKT.M.RESET`: the reset command packet (R93) -/
  | pktMReset
  /-- `PKT.T`: the terminator packet (R94) -/
  | pktT
deriving DecidableEq, Repr

/-- What the decoder reads: a command word on the port (R80) or the bytes of a wire packet (R86). -/
inductive Presented where
  /-- the 12-bit word on `cmd[11:0]` -/
  | command (w : CmdWord)
  /-- the bytes of one packet, byte 0 first -/
  | packet (bytes : List Byte)
deriving DecidableEq, Repr

/-- Why a byte sequence is not a wire packet of rule R86. -/
inductive DecodeError where
  /-- fewer than the five header bytes (R86) -/
  | tooShort
  /-- byte 1 is not 0xC3 (R88) -/
  | badSync0
  /-- byte 2 is not 0xFF (R88) -/
  | badSync1
  /-- byte 3 is not 0xF5 (R88) -/
  | badSync2
  /-- the sequence is not `6 + length` bytes long (R89) -/
  | badLength
  /-- the last byte is not the checksum of the bytes before it (R90) -/
  | badChecksum
deriving DecidableEq, Repr

end Sys2Proof
end

