-- ==== Sys2Proof/WellFormed.lean ====
section
/-! DEFINITION. Which terms of `Instr` are instructions: the ranges the spec gives a packet form's operands. A command takes
every operand byte (R81, R83). -/

namespace Sys2Proof

/-- The length byte is one byte, so a body has at most 255 bytes (R89). -/
def bodyFits (body : List Byte) : Bool := decide (body.length ≤ 255)

/-- A fragment index is 1 to 15 (R92). -/
def fragIndexOk (k : BitVec 4) : Bool := decide (1 ≤ k.toNat)

/-- A fragment has 1 to 12 text bytes (R91). -/
def fragTextOk (text : List Byte) : Bool := decide (1 ≤ text.length) && decide (text.length ≤ 12)

/-- The body has the shape of a message fragment: 0x00, 0x01, a sub-type `16k + 1` with k from 1 to 15, and 1 to 12 text
bytes (R91, R92). -/
def isFragBody : List Byte → Bool
  | a :: b :: st :: text =>
    a == 0x00#8 && b == 0x01#8 && decide (st.toNat % 16 = 1) && decide (16 ≤ st.toNat) && fragTextOk text
  | _ => false

/-- The packet with type `t` and body `body` is one of the three forms that have a row of their own (R91, R93, R94), so it is
written with that form's constructor and not with `pkt`. -/
def hasOwnForm (t : Byte) (body : List Byte) : Bool :=
  (t == 0x54#8 && body.isEmpty) || (t == 0x4D#8 && (body == [0x00#8, 0x01#8, 0x00#8] || isFragBody body))

/-- The well-formed instructions. -/
def wellFormed : Instr → Bool
  | .nop _ | .csClr _ | .csAdd _ | .pbClr _ | .pbPush _ | .pkPush _ | .pkFin _ | .txSend _ | .stClr _ => true
  | .reserved9 _ | .reservedA _ | .reservedB _ | .reservedC _ | .reservedD _ | .reservedE _ | .reservedF _ => true
  | .pkt t body => bodyFits body && !hasOwnForm t body
  | .pktMFrag k text => fragIndexOk k && fragTextOk text
  | .pktMReset => true
  | .pktT => true

end Sys2Proof
end

