-- ==== Sys2Proof/Decode.lean ====
section
/-! DEFINITION. The byte arithmetic of the checksum (40_checksum.md), the decoder of command words (30_encoding.md rules R80
to R83) and of wire packets (rules R86 to R94), and the encoder written from the same tables. -/

namespace Sys2Proof

/-! ## Byte arithmetic -/

/-- `neg8(a) = (256 - a) mod 256` (R10, R112). -/
def neg8 (a : Byte) : Byte := BitVec.ofNat 8 ((256 - a.toNat) % 256)

/-- The document's `sum(...)` of a byte sequence, not reduced (R90). -/
def docSum (bs : List Byte) : Nat := (bs.map BitVec.toNat).sum

/-- The document's checksum of the bytes before it: `(256 - (sum mod 256)) mod 256` (R90). -/
def docChecksum (bs : List Byte) : Byte := BitVec.ofNat 8 ((256 - docSum bs % 256) % 256)

/-! ## The wire packet -/

/-- The five bytes before the body: type, the three sync bytes, length (R86, R88, R89). -/
def packetHeader (t : Byte) (body : List Byte) : List Byte :=
  [t, 0xC3#8, 0xFF#8, 0xF5#8, BitVec.ofNat 8 body.length]

/-- Every byte the checksum covers (R90). -/
def packetCovered (t : Byte) (body : List Byte) : List Byte := packetHeader t body ++ body

/-- The wire packet with type `t` and body `body` (R86). -/
def packetBytes (t : Byte) (body : List Byte) : Packet :=
  packetCovered t body ++ [docChecksum (packetCovered t body)]

/-- The sub-type byte `k * 16 + 1` of fragment number `k` (R92). -/
def subType (k : BitVec 4) : Byte := BitVec.ofNat 8 (k.toNat * 16 + 1)

/-- The body of the message fragment with index `k` (R91). -/
def fragBody (k : BitVec 4) (text : List Byte) : List Byte := 0x00#8 :: 0x01#8 :: subType k :: text

/-- The body of the reset command (R93). -/
def resetBody : List Byte := [0x00#8, 0x01#8, 0x00#8]

/-- The type byte 'M' (R87). -/
def typeM : Byte := 0x4D#8

/-- The type byte 'T' (R87). -/
def typeT : Byte := 0x54#8

/-! ## Decoding -/

/-- The operation code `cmd[11:8]` (R80). -/
def opField (w : CmdWord) : BitVec 4 := w.extractLsb' 8 4

/-- The operand byte `cmd[7:0]`, used as it stands (R80, R81). -/
def dField (w : CmdWord) : Byte := w.extractLsb' 0 8

/-- The command a word stands for; it takes `op` alone (R82, R83). Every word is a command. -/
def decodeCommand (w : CmdWord) : Instr :=
  match (opField w).toNat with
  | 0x0 => .nop (dField w)
  | 0x1 => .csClr (dField w)
  | 0x2 => .csAdd (dField w)
  | 0x3 => .pbClr (dField w)
  | 0x4 => .pbPush (dField w)
  | 0x5 => .pkPush (dField w)
  | 0x6 => .pkFin (dField w)
  | 0x7 => .txSend (dField w)
  | 0x8 => .stClr (dField w)
  | 0x9 => .reserved9 (dField w)
  | 0xA => .reservedA (dField w)
  | 0xB => .reservedB (dField w)
  | 0xC => .reservedC (dField w)
  | 0xD => .reservedD (dField w)
  | 0xE => .reservedE (dField w)
  | _ => .reservedF (dField w)

/-- The index and the text of a message fragment's body: 0x00, 0x01, a sub-type whose high nibble is the index (1 to 15) and
whose low nibble is 1, then 1 to 12 text bytes (R91, R92). -/
def fragFields : List Byte → Option (BitVec 4 × List Byte)
  | a :: b :: st :: text =>
    if a = 0x00#8 ∧ b = 0x01#8 ∧ st.extractLsb' 0 4 = 1#4 ∧ st.extractLsb' 4 4 ≠ 0#4 ∧ 1 ≤ text.length ∧ text.length ≤ 12
    then some (st.extractLsb' 4 4, text) else none
  | _ => none

/-- The packet form with type `t` and body `body`: the row with the most fixed bytes that fits (R91, R93, R94), else `PKT`. -/
def packetForm (t : Byte) (body : List Byte) : Instr :=
  if t = typeT ∧ body = [] then .pktT
  else if t = typeM ∧ body = resetBody then .pktMReset
  else if t = typeM then
    match fragFields body with
    | some (k, text) => .pktMFrag k text
    | none => .pkt t body
  else .pkt t body

/-- The packet a byte sequence is, or the name of the first rule it breaks (R86 to R90). -/
def decodePacket : List Byte → Except DecodeError Instr
  | t :: s0 :: s1 :: s2 :: len :: rest =>
    if s0 ≠ 0xC3#8 then .error .badSync0
    else if s1 ≠ 0xFF#8 then .error .badSync1
    else if s2 ≠ 0xF5#8 then .error .badSync2
    else if rest.length ≠ len.toNat + 1 then .error .badLength
    else if rest.drop len.toNat ≠ [docChecksum (t :: s0 :: s1 :: s2 :: len :: rest.take len.toNat)] then .error .badChecksum
    else .ok (packetForm t (rest.take len.toNat))
  | _ => .error .tooShort

/-- The decoder, total on every word and every byte sequence. -/
def decode : Presented → Except DecodeError Instr
  | .command w => .ok (decodeCommand w)
  | .packet bytes => decodePacket bytes

/-! ## Encoding -/

/-- The word `op ∥ d` (R80). -/
def commandWord (op : BitVec 4) (d : Byte) : CmdWord := op ++ d

/-- The words or bytes of an instruction (R82, R86, R91, R93, R94). -/
def encode : Instr → Presented
  | .nop d => .command (commandWord 0x0#4 d)
  | .csClr d => .command (commandWord 0x1#4 d)
  | .csAdd d => .command (commandWord 0x2#4 d)
  | .pbClr d => .command (commandWord 0x3#4 d)
  | .pbPush d => .command (commandWord 0x4#4 d)
  | .pkPush d => .command (commandWord 0x5#4 d)
  | .pkFin d => .command (commandWord 0x6#4 d)
  | .txSend d => .command (commandWord 0x7#4 d)
  | .stClr d => .command (commandWord 0x8#4 d)
  | .reserved9 d => .command (commandWord 0x9#4 d)
  | .reservedA d => .command (commandWord 0xA#4 d)
  | .reservedB d => .command (commandWord 0xB#4 d)
  | .reservedC d => .command (commandWord 0xC#4 d)
  | .reservedD d => .command (commandWord 0xD#4 d)
  | .reservedE d => .command (commandWord 0xE#4 d)
  | .reservedF d => .command (commandWord 0xF#4 d)
  | .pkt t body => .packet (packetBytes t body)
  | .pktMFrag k text => .packet (packetBytes typeM (fragBody k text))
  | .pktMReset => .packet (packetBytes typeM resetBody)
  | .pktT => .packet (packetBytes typeT [])

/-! ## The opcode table's numbering -/

/-- `n` bytes of `w`, the most significant first: the numbering of the packet rows of opcode_table.json. -/
def bytesMsbFirst : Nat → Nat → List Byte
  | 0, _ => []
  | n + 1, w => BitVec.ofNat 8 (w >>> (8 * n)) :: bytesMsbFirst n w

/-- `n` bytes of `w`, the least significant first. -/
def bytesLsbFirst : Nat → Nat → List Byte
  | 0, _ => []
  | n + 1, w => BitVec.ofNat 8 w :: bytesLsbFirst n (w >>> 8)

/-- A packet prefix filled up with zero bytes to the length its length byte declares (R89). -/
def padPacket (bs : List Byte) : List Byte := bs ++ List.replicate (6 + (bs.getD 4 0#8).toNat - bs.length) 0#8

/-- The packet bytes a table row's number stands for: the table numbers its packet rows with the first byte most significant;
a number that is no packet in that order is read with the first byte least significant (log entry 11). -/
def tablePacket (nbits w : Nat) : List Byte :=
  match decodePacket (bytesMsbFirst (nbits / 8) w) with
  | .ok _ => bytesMsbFirst (nbits / 8) w
  | .error _ => padPacket (bytesLsbFirst (nbits / 8) w)

/-- What a table row's number presents: up to 16 bits a command word, above that a packet. -/
def tablePresented (nbits w : Nat) : Presented :=
  if nbits ≤ 16 then .command (BitVec.ofNat 12 w) else .packet (tablePacket nbits w)

/-- The instruction the decoder reads from a table row's number. -/
def decodeTableWord (nbits w : Nat) : Option Instr :=
  if nbits ≤ 16 ∧ 4096 ≤ w then none
  else match decode (tablePresented nbits w) with
    | .ok i => some i
    | .error _ => none

end Sys2Proof
end

