-- ==== Sys2Proof/Machine/State.lean ====
section
/-! DEFINITION. The state of SRTX as plain data: the thirteen elements of 10_state.md rule R20, and beside them the fields of
the MODEL that stand for the agents around the block (the bytes the channel has taken, the input samples and the packets
still to come, and the counter of free input samples). The reset state is rule R40. -/

namespace Sys2Proof.Machine

/-- `PHASE` (R21): the five phases of a transmit session. -/
inductive Phase where
  /-- 0: inactive -/
  | idle
  /-- 1: the guard before the first byte -/
  | pre
  /-- 2: bytes are handed to the channel -/
  | write
  /-- 3: waiting until the channel is drained -/
  | flush
  /-- 4: the guard before the release -/
  | post
deriving DecidableEq, Repr

/-- `CAUSE` (R30): why the last session failed. -/
inductive Cause where
  /-- 0: no fault -/
  | none
  /-- 1: the channel reported a fault while bytes were being written -/
  | writeFault
  /-- 2: the channel reported a fault while the block waited for drain -/
  | flushFault
  /-- 3: the optional flush bound expired -/
  | flushTimeout
deriving DecidableEq, Repr

/-- The packet buffer `PB` as cells (index, byte), indices strictly rising; an index that is not listed has not been written
since power-up (R25, R60). -/
abbrev Memory := List Host.Cell

/-- A packet the host has been given to send. -/
structure QueuedPacket where
  /-- its bytes, in transmission order (R86) -/
  bytes   : Packet
  /-- it belongs to the same operation as the packet before it: it is not sent unless that one was (44_host_encoder.md rule
  R233) -/
  follows : Bool
deriving DecidableEq, Repr

structure State where
  /-- `PHASE` (R21) -/
  phase : Phase
  /-- `DE`, the bus-direction register, true = transmit (R22) -/
  de    : Bool
  /-- `GT`, the guard and timeout down-counter (R23; a natural number, as R23 allows) -/
  gt    : Nat
  /-- `TXCNT`, the bytes the channel has taken since the last `TX.SEND` (R24) -/
  txcnt : Count
  /-- `PB[0..260]` (R25) -/
  pb    : Memory
  /-- `PB_LEN`, the number of valid bytes of `PB` (R26) -/
  pbLen : Count
  /-- `SUM`, the accumulator (R27) -/
  sum   : Byte
  /-- `DONE` (R28) -/
  done  : Bool
  /-- `ERR` (R29) -/
  err   : Bool
  /-- `CAUSE` (R30) -/
  cause : Cause
  /-- `INFO` (R31) -/
  info  : Byte
  /-- `F_OVF` (R32) -/
  fOvf  : Bool
  /-- `F_ILL` (R33) -/
  fIll  : Bool
  /-- MODEL'S OWN: every byte the channel agent has taken, oldest first (R37, R163) -/
  taken : List Byte
  /-- MODEL'S OWN: the input samples of the ticks to come, the next tick's first (R9, R34) -/
  inq   : List Inputs
  /-- MODEL'S OWN: the packets the host has been given to send, the next first (R96, R97, R233) -/
  pkts  : List QueuedPacket
  /-- MODEL'S OWN: how many free input samples have been drawn -/
  draws : Nat
deriving DecidableEq, Repr

/-- The state after a tick with `rst = 1` (R20, R40), with nothing written to the buffer since power-up, nothing taken by the
channel, and no input queued. -/
def State.reset : State where
  phase := .idle
  de := false
  gt := 0
  txcnt := 0#9
  pb := []
  pbLen := 0#9
  sum := 0x00#8
  done := false
  err := false
  cause := .none
  info := 0x00#8
  fOvf := false
  fIll := false
  taken := []
  inq := []
  pkts := []
  draws := 0

/-- Why the machine stops. -/
inductive Fault where
  /-- Raised by a byte transfer (`transferByte`) whose read index `TXCNT` is 261 or more: that byte of `PB` does not exist
  (R60). Only in states with `PB_LEN > 261`, which no run from reset reaches (R38 (c)). Safe. -/
  | noSuchBufferByte (index : Nat)
deriving DecidableEq, Repr

/-- Why an instruction, or a host-side function, produces nothing. -/
inductive Refusal where
  /-- Raised by an arm of `exec` whose instruction has no meaning yet. Safe. -/
  | notModelled (mnemonic : String)
  /-- Raised by `runPacket` when the bytes given to the host are not a wire packet (R86 to R90). Safe. -/
  | notAPacket (why : DecodeError)
  /-- `BodyTooLarge`: raised by `encode_packet`, and by a packet form, for a body longer than 255 bytes (R222). Safe. -/
  | bodyTooLarge
  /-- `PayloadTooLarge`: raised by `encode_message` for a message longer than 180 bytes (R228). Safe. -/
  | payloadTooLarge
deriving DecidableEq, Repr

end Sys2Proof.Machine
end

