-- ==== Sys2Proof/Machine/Flags.lean ====
section
/-! DEFINITION. The status and sticky-flag registers of STAT: what sets and what clears each (10_state.md rules R28 to R33).
There are no arithmetic flags: the carry of the checksum addition is discarded (40_checksum.md rules R111, R114). -/

namespace Sys2Proof.Machine

/-- `F_OVF <- 1` (R32, R134, R256). -/
def setOverflow (s : State) : State := { s with fOvf := true }

/-- `F_ILL <- 1` (R33, R212, R257). -/
def setIllegal (s : State) : State := { s with fIll := true }

/-- `DONE <- 0; ERR <- 0; CAUSE <- 0; INFO <- 0`: the record of the last session is dismissed (R160, R211). -/
def clearResult (s : State) : State := { s with done := false, err := false, cause := .none, info := 0x00#8 }

/-- `F_OVF <- 0; F_ILL <- 0` (R211). -/
def clearSticky (s : State) : State := { s with fOvf := false, fIll := false }

/-- `DONE <- 1; ERR <- 0` of a normal end: `ERR`, `CAUSE` and `INFO` keep their values (R165). -/
def setDone (s : State) : State := { s with done := true }

/-- `DONE <- 1; ERR <- 1; CAUSE <- c; INFO <- i` of a session fault (R254). -/
def recordFault (c : Cause) (i : Byte) (s : State) : State :=
  { s with done := true, err := true, cause := c, info := i }

end Sys2Proof.Machine
end

