-- ==== Sys2Proof/Machine/Operands.lean ====
section
/-! DEFINITION. The operand forms of SRTX: the immediate byte of a command, the implicit checksum byte of `PK.FIN`, the two
implicit buffer indices, and the reading and writing of the buffer, its one address space (20_memory.md rules R60 to R66). -/

namespace Sys2Proof.Machine

/-- `PB_CAP` (00_scope.md rule R7). -/
def pbCap : Nat := 261

/-- The operand `d`, used as it stands: no extension, no scaling, no shift (R81). -/
def immediate (d : Byte) : Byte := d

/-- The byte `PK.FIN` appends: `neg8(SUM)` (R133). -/
def checksumOperand (s : State) : Byte := neg8 s.sum

/-- The index at which the next push stores (R26, R60). -/
def storeIndex (s : State) : Nat := s.pbLen.toNat

/-- The index of the byte on offer in WRITE (R24, R60). -/
def offerIndex (s : State) : Nat := s.txcnt.toNat

/-- Byte `a` of the buffer, if it has been written since power-up. -/
def Memory.read : Memory → Nat → Option Byte
  | [], _ => none
  | (b, v) :: rest, a => if a = b then some v else Memory.read rest a

/-- The buffer with byte `a` written; the cells stay in rising order. -/
def Memory.write : Memory → Nat → Byte → Memory
  | [], a, v => [(a, v)]
  | (b, w) :: rest, a, v =>
    if a < b then (a, v) :: (b, w) :: rest
    else if a = b then (a, v) :: rest
    else (b, w) :: Memory.write rest a v

/-- The buffer with the bytes `bs` written from index `a` on. -/
def Memory.writeAll : Memory → Nat → List Byte → Memory
  | m, _, [] => m
  | m, a, b :: bs => Memory.writeAll (m.write a b) (a + 1) bs

/-- Byte `a` of the buffer; a byte never written holds the free value of its index (R25: "whatever was last written there or,
after power-up, anything"). -/
def Memory.byteAt (m : Memory) (a : Nat) : Byte := (m.read a).getD (Config.powerUpByte a)

/-- The cells from index `lo` on: indices strictly rising, none outside the buffer (R60). -/
def Memory.wfFrom : Nat → Memory → Bool
  | _, [] => true
  | lo, (a, _) :: rest => decide (lo ≤ a) && decide (a < pbCap) && Memory.wfFrom (a + 1) rest

/-- The canonical form of the buffer: equal buffers are equal lists. -/
def Memory.wf (m : Memory) : Bool := Memory.wfFrom 0 m

/-- The bytes `PB[i .. i+n-1]`. -/
def Memory.bytesFrom (m : Memory) (i : Nat) : Nat → List Byte
  | 0 => []
  | n + 1 => m.byteAt i :: Memory.bytesFrom m (i + 1) n

/-- The valid bytes `PB[0 .. PB_LEN-1]`: what a session sends (R85, R160). -/
def validBytes (s : State) : List Byte := s.pb.bytesFrom 0 s.pbLen.toNat

end Sys2Proof.Machine
end

