-- ==== Sys2Proof/Machine/Ops.lean ====
section
/-! DEFINITION. The shared operations of the machine: acceptance of a command, the register effects of the commands, the FAULT
procedure (60_exceptions.md rule R254), the reset (70_reset_and_hazards.md rule R280), and how an input sample or a packet of
the host is taken. -/

namespace Sys2Proof.Machine

/-- What an accepted command, or one that is not accepted, leads to. -/
abbrev Result := Host.Outcome State Fault Refusal

/-- A command presented at state `s`: it is executed if `PHASE = IDLE`; otherwise it is not accepted and nothing is recorded
(43_status_system.md rules R213, R214). -/
def accepted (effect : State → State) (s : State) : Result :=
  .next (if s.phase = .idle then effect s else s)

/-! ## The accumulator (40_checksum.md) -/

/-- `SUM <- 0` (R110). -/
def clearSum (s : State) : State := { s with sum := 0x00#8 }

/-- `SUM <- (SUM + d) mod 256`; the carry is discarded (R111). -/
def addSum (d : Byte) (s : State) : State := { s with sum := s.sum + d }

/-! ## The buffer (41_packet_buffer_framer.md) -/

/-- `PB_LEN <- 0`; the bytes are not erased (R130). -/
def clearBuffer (s : State) : State := { s with pbLen := 0#9 }

/-- `PB[PB_LEN] <- d; PB_LEN <- PB_LEN + 1` (R131). -/
def appendByte (d : Byte) (s : State) : State :=
  { s with pb := s.pb.write (storeIndex s) d, pbLen := s.pbLen + 1#9 }

/-- A push: `effect` if there is room, else the command is dropped whole and `F_OVF` is set (R131 to R134, R256). -/
def ifRoom (effect : State → State) (s : State) : State :=
  if s.pbLen.toNat < pbCap then effect s else setOverflow s

/-- `PB.PUSH d` (R131). -/
def pushRaw (d : Byte) (s : State) : State := ifRoom (appendByte d) s

/-- `PK.PUSH d` (R132). -/
def pushSummed (d : Byte) (s : State) : State := ifRoom (fun s => addSum d (appendByte d s)) s

/-- `PK.FIN` (R133): append `neg8(SUM)` and add it to `SUM`. -/
def pushChecksum (s : State) : State := pushSummed (checksumOperand s) s

/-! ## Sessions (42_transmit_sequencer.md, 60_exceptions.md) -/

/-- `TX.SEND` (R160). -/
def startSession (P : Params) (s : State) : State :=
  { clearResult s with txcnt := 0#9, de := true, gt := P.preTicks, phase := .pre }

/-- TAKING AN EXCEPTION: the FAULT procedure `Fault(c, i)` (R254): `DE <- 0; PHASE <- IDLE; DONE <- 1; ERR <- 1; CAUSE <- c;
INFO <- i; GT <- 0`. Nothing else changes, and the remaining steps of the session are abandoned. -/
def raiseFault (c : Cause) (i : Byte) (s : State) : State :=
  { recordFault c i s with de := false, phase := .idle, gt := 0 }

/-- RETURNING FROM AN EXCEPTION: there is no return instruction (R261). The machine is in IDLE already; `ST.CLR` dismisses the
record of the fault together with the sticky flags (R211). -/
def dismissStatus (s : State) : State := clearSticky (clearResult s)

/-- The normal end of a session (R165): `DE <- 0; PHASE <- IDLE; DONE <- 1; GT <- 0`. -/
def endSession (s : State) : State := { setDone s with de := false, phase := .idle, gt := 0 }

/-- A byte transfer at a WRITE tick (R163): the channel takes `PB[TXCNT]` and `TXCNT <- TXCNT + 1`. Outside `TXCNT < PB_LEN`,
where no byte is on offer (R35), only the count of R162 (iii) is left. -/
def transferByte (s : State) : Result :=
  if s.txcnt < s.pbLen then
    if offerIndex s < pbCap then
      .next { s with taken := s.taken ++ [s.pb.byteAt (offerIndex s)], txcnt := s.txcnt + 1#9 }
    else .fault (.noSuchBufferByte (offerIndex s))
  else .next { s with txcnt := s.txcnt + 1#9 }

/-! ## Reset (70_reset_and_hazards.md) -/

/-- A tick with `rst = 1` (R280): every register takes its reset value; the bytes of `PB` are left as they are, and the agents
around the block are not reset. -/
def resetRegisters (s : State) : State :=
  { State.reset with pb := s.pb, taken := s.taken, inq := s.inq, pkts := s.pkts, draws := s.draws }

/-! ## Packets (30_encoding.md rules R85, R97) -/

/-- The pushes of `ENCODE_PACKET t, body` up to the last body byte: `PB.CLR`, `CS.CLR`, then one `PK.PUSH` for each byte the
checksum covers (R97, R135). -/
def pushCovered (t : Byte) (body : List Byte) (s : State) : State :=
  (packetCovered t body).foldl (fun s d => pushSummed d s) (clearSum (clearBuffer s))

/-- `ENCODE_PACKET t, body` (R97, R135). -/
def encodeIntoBuffer (t : Byte) (body : List Byte) (s : State) : State := pushChecksum (pushCovered t body s)

/-- `SEND_PACKET t, body` up to the acceptance of its `TX.SEND` (R97): the meaning of a wire packet form. A body longer than
255 bytes is refused before any command is issued (R222). The host's commands wait while a session runs (R214). -/
def sendPacket (P : Params) (t : Byte) (body : List Byte) (s : State) : Result :=
  if body.length ≤ 255 then accepted (fun s => startSession P (encodeIntoBuffer t body s)) s
  else .refused .bodyTooLarge

/-! ## What the next step reads -/

/-- The inputs of the next tick: the oldest queued sample, or a free one when none is queued. -/
def takeInputs (s : State) : Inputs × State :=
  match s.inq with
  | x :: rest => (x, { s with inq := rest })
  | [] => (Config.freeInputs s.draws, { s with draws := s.draws + 1 })

/-- The host between two packets (44_host_encoder.md rule R233): it goes on with the operation in hand only where the ports show
that the packet before was sent, `done = 1` and `err = 0` (70_reset_and_hazards.md rule R295). After `err = 1` the operation's
remaining packets are not sent. DESIGN CHOICE (log entry 27): nor are they where reset cut the session off, which leaves
`done = err = 0` (R281). Operations after it stay. -/
def endOperation (s : State) : State :=
  if s.phase = .idle ∧ ¬ (s.done = true ∧ s.err = false) then { s with pkts := s.pkts.dropWhile (·.follows) } else s

/-- The packet the host issues next: it presents a packet's commands only when it sees `cmd_ready = 1` (R97 `WAIT`, R213). -/
def takePacket (s : State) : Option (Packet × State) :=
  match s.phase, s.pkts with
  | .idle, p :: rest => some (p.bytes, { s with pkts := rest })
  | _, _ => none

end Sys2Proof.Machine
end

