-- ==== Sys2Proof/Machine/Checksum.lean ====
section
/-! DEFINITION. The commands of the checksum accumulator (spec 40_checksum.md). -/

namespace Sys2Proof.Machine

/-- `CS.CLR` (R110); `d` is ignored (R81). -/
def execCsClr (_d : Byte) (s : State) : Result := accepted clearSum s

/-- `CS.ADD d` (R111). -/
def execCsAdd (d : Byte) (s : State) : Result := accepted (addSum (immediate d)) s

end Sys2Proof.Machine
end

