-- ==== Sys2Proof/Machine/Framer.lean ====
section
/-! DEFINITION. The commands of the packet buffer and the framer (spec 41_packet_buffer_framer.md). -/

namespace Sys2Proof.Machine

/-- `PB.CLR` (R130); `d` is ignored (R81). -/
def execPbClr (_d : Byte) (s : State) : Result := accepted clearBuffer s

/-- `PB.PUSH d` (R131, R134). -/
def execPbPush (d : Byte) (s : State) : Result := accepted (pushRaw (immediate d)) s

/-- `PK.PUSH d` (R132, R134). -/
def execPkPush (d : Byte) (s : State) : Result := accepted (pushSummed (immediate d)) s

/-- `PK.FIN` (R133, R134); `d` is ignored (R81). -/
def execPkFin (_d : Byte) (s : State) : Result := accepted pushChecksum s

end Sys2Proof.Machine
end

