-- ==== Sys2Proof/Machine/PacketForms.lean ====
section
/-! DEFINITION. The wire packet forms (spec 30_encoding.md rules R85 to R94): what the host does with one is the pseudo-command
`SEND_PACKET` of rule R97, whose instances `SEND_RESET`, `SEND_TERMINATOR` and the packets of `SEND_MESSAGE` are the other
three forms. The byte transfers follow in the ticks of the session it starts (log entry 10). -/

namespace Sys2Proof.Machine

/-- `PKT` (R86): `SEND_PACKET t, body`. -/
def execPkt (t : Byte) (body : List Byte) (s : State) : Result := sendPacket Config.params t body s

/-- `PKT.M.FRAG` (R91, R92): `SEND_PACKET 0x4D, [0x00, 0x01, 16k+1] ++ text`. -/
def execPktMFrag (k : BitVec 4) (text : List Byte) (s : State) : Result :=
  sendPacket Config.params typeM (fragBody k text) s

/-- `PKT.M.RESET` (R93): `SEND_RESET`. -/
def execPktMReset (s : State) : Result := sendPacket Config.params typeM resetBody s

/-- `PKT.T` (R94): `SEND_TERMINATOR`. -/
def execPktT (s : State) : Result := sendPacket Config.params typeT [] s

end Sys2Proof.Machine
end

