-- ==== Sys2Proof/Machine/Status.lean ====
section
/-! DEFINITION. `NOP`, `ST.CLR` and the reserved commands (spec 43_status_system.md). -/

namespace Sys2Proof.Machine

/-- `NOP` (R210); `d` is ignored (R81). -/
def execNop (_d : Byte) (s : State) : Result := accepted (fun s => s) s

/-- `ST.CLR` (R211); `d` is ignored (R81). -/
def execStClr (_d : Byte) (s : State) : Result := accepted dismissStatus s

/-- Reserved code 0x9 (R83, R212, R257). -/
def execReserved9 (_d : Byte) (s : State) : Result := accepted setIllegal s

/-- Reserved code 0xA (R83, R212, R257). -/
def execReservedA (_d : Byte) (s : State) : Result := accepted setIllegal s

/-- Reserved code 0xB (R83, R212, R257). -/
def execReservedB (_d : Byte) (s : State) : Result := accepted setIllegal s

/-- Reserved code 0xC (R83, R212, R257). -/
def execReservedC (_d : Byte) (s : State) : Result := accepted setIllegal s

/-- Reserved code 0xD (R83, R212, R257). -/
def execReservedD (_d : Byte) (s : State) : Result := accepted setIllegal s

/-- Reserved code 0xE (R83, R212, R257). -/
def execReservedE (_d : Byte) (s : State) : Result := accepted setIllegal s

/-- Reserved code 0xF (R83, R212, R257). -/
def execReservedF (_d : Byte) (s : State) : Result := accepted setIllegal s

end Sys2Proof.Machine
end

