-- ==== Sys2Proof/Machine/Transmit.lean ====
section
/-! DEFINITION. The transmit sequencer (spec 42_transmit_sequencer.md): the command `TX.SEND` and the ticks of the four phases
of a session. Each tick does the first case that applies, in the order of 60_exceptions.md rule R260. -/

namespace Sys2Proof.Machine

/-- `TX.SEND` (R160); `d` is ignored (R81). -/
def execTxSend (_d : Byte) (s : State) : Result := accepted (startSession Config.params) s

/-- A PRE tick (R161). -/
def preTick (s : State) : State :=
  if s.gt = 1 then { s with phase := .write, gt := 0 } else { s with gt := s.gt - 1 }

/-- A WRITE tick (R162, R163, R251). -/
def writeTick (P : Params) (x : Inputs) (s : State) : Result :=
  if x.chFault then .next (raiseFault .writeFault x.chFcode s)
  else if s.txcnt = s.pbLen then .next { s with phase := .flush, gt := P.flushTmo }
  else if x.chReady then transferByte s
  else .next s

/-- A FLUSH tick (R164, R252, R253). -/
def flushTick (P : Params) (x : Inputs) (s : State) : State :=
  if x.chFault then raiseFault .flushFault x.chFcode s
  else if x.chIdle then { s with phase := .post, gt := P.postTicks }
  else if P.flushTmo ≠ 0 then
    if s.gt = 1 then raiseFault .flushTimeout 0x00#8 s else { s with gt := s.gt - 1 }
  else s

/-- A POST tick (R165). -/
def postTick (s : State) : State :=
  if s.gt = 1 then endSession s else { s with gt := s.gt - 1 }

end Sys2Proof.Machine
end

