-- ==== Sys2Proof/Machine/Dispatch.lean ====
section
/-! DEFINITION. The meaning of each instruction, one arm per constructor of `Instr`. -/

namespace Sys2Proof.Machine

/-- The instruction `i` presented at state `s`. -/
def exec (i : Instr) (s : State) : Host.Outcome State Fault Refusal :=
  match i with
  | .nop d => Sys2Proof.Machine.execNop d s
  | .csClr d => Sys2Proof.Machine.execCsClr d s
  | .csAdd d => Sys2Proof.Machine.execCsAdd d s
  | .pbClr d => Sys2Proof.Machine.execPbClr d s
  | .pbPush d => Sys2Proof.Machine.execPbPush d s
  | .pkPush d => Sys2Proof.Machine.execPkPush d s
  | .pkFin d => Sys2Proof.Machine.execPkFin d s
  | .txSend d => Sys2Proof.Machine.execTxSend d s
  | .stClr d => Sys2Proof.Machine.execStClr d s
  | .reserved9 d => Sys2Proof.Machine.execReserved9 d s
  | .reservedA d => Sys2Proof.Machine.execReservedA d s
  | .reservedB d => Sys2Proof.Machine.execReservedB d s
  | .reservedC d => Sys2Proof.Machine.execReservedC d s
  | .reservedD d => Sys2Proof.Machine.execReservedD d s
  | .reservedE d => Sys2Proof.Machine.execReservedE d s
  | .reservedF d => Sys2Proof.Machine.execReservedF d s
  | .pkt t body => Sys2Proof.Machine.execPkt t body s
  | .pktMFrag k text => Sys2Proof.Machine.execPktMFrag k text s
  | .pktMReset => Sys2Proof.Machine.execPktMReset s
  | .pktT => Sys2Proof.Machine.execPktT s

end Sys2Proof.Machine
end

