-- ==== Sys2Proof/Machine/Tick.lean ====
section
/-! DEFINITION. One tick of the block: the dispatch of 42_transmit_sequencer.md rule R168, and how the host's packet and a
word of the opcode table come to be run. -/

namespace Sys2Proof.Machine

/-- An IDLE tick (R166): a command presented is accepted; otherwise nothing changes. -/
def idleTick (x : Inputs) (s : State) : Result :=
  if x.cmdValid then exec (decodeCommand x.cmd) s else .next s

/-- The dispatch of R168: `rst` first, then by the `PHASE` of the state before the tick. -/
def tick (x : Inputs) (s : State) : Result :=
  if x.rst then .next (resetRegisters s)
  else match s.phase with
    | .idle => idleTick x s
    | .pre => .next (preTick s)
    | .write => writeTick Config.params x s
    | .flush => .next (flushTick Config.params x s)
    | .post => .next (postTick s)

/-- The host issues the packet `bytes` (R97); bytes that are no packet are refused and no command is issued. -/
def runPacket (bytes : List Byte) (s : State) : Result :=
  match decode (.packet bytes) with
  | .ok i => exec i s
  | .error why => .refused (.notAPacket why)

/-- The sample in which the host presents the word `w` and nothing else happens. -/
def commandSample (w : CmdWord) : Inputs :=
  { rst := false, cmdValid := true, cmd := w, chReady := false, chIdle := false, chFault := false, chFcode := 0x00#8 }

/-- `s` brought to where a command is accepted (R213): `PHASE = IDLE`, with `DE` and `GT` as they are in IDLE. -/
def atAcceptance (s : State) : State := { s with phase := .idle, de := false, gt := 0 }

/-- `s` with `p` presented at its next step. -/
def present (p : Presented) (s : State) : State :=
  match p with
  | .command w => { atAcceptance s with inq := commandSample w :: s.inq, pkts := [] }
  | .packet bytes => { atAcceptance s with pkts := ⟨bytes, false⟩ :: s.pkts }

end Sys2Proof.Machine
end

