-- ==== Sys2Proof/Machine/Step.lean ====
section
/-! DEFINITION. One step of the machine: the host issues a packet it has been given when the block is in IDLE and the packet's
operation has not ended (44_host_encoder.md rule R233), else one tick of the clock with the next input sample (spec
00_scope.md rule R9, 42_transmit_sequencer.md rule R168). -/

namespace Sys2Proof.Machine

/-- One step. -/
def step (s : State) : Host.Outcome State Fault Refusal :=
  match takePacket (endOperation s) with
  | some (bytes, s') => runPacket bytes s'
  | none => tick (takeInputs (endOperation s)).1 (takeInputs (endOperation s)).2

/-- `s` with a word of the opcode table presented at its next step. -/
def State.withFetchWord (s : State) (nbits w : Nat) : State := present (tablePresented nbits w) s

end Sys2Proof.Machine
end

