-- ==== Sys2Proof/Machine/HostEncoder.lean ====
section
/-! DEFINITION. The host-side reference functions of spec 44_host_encoder.md (rules R220 to R232), pure functions outside the
block, and the expansions of the pseudo-commands (30_encoding.md rule R97) as command words. -/

namespace Sys2Proof.Machine

/-! ## The encoder -/

/-- `encode_packet(type_byte, body)` (R221), refused above 255 body bytes (R222). -/
def encodePacket (t : Byte) (body : List Byte) : Except Refusal Packet :=
  if body.length ≤ 255 then .ok (packetBytes t body) else .error .bodyTooLarge

/-- The most bytes of a message (R223). -/
def maxMessage : Nat := 180

/-- The most text bytes of a fragment (R13, R223). -/
def fragmentSize : Nat := 12

/-- `s[i:j]`: the bytes at indices i up to but not including j (R10). -/
def slice (bs : List Byte) (i j : Nat) : List Byte := (bs.take j).drop i

/-- `F = ceil(n / 12)` (R225). -/
def fragmentCount (n : Nat) : Nat := (n + (fragmentSize - 1)) / fragmentSize

/-- The text of fragment `i`, 0-based, clamped to the end of the message (R224; 90_conflicts.md C5: `min`). -/
def fragmentText (m : List Byte) (i : Nat) : List Byte :=
  slice m (fragmentSize * i) (min (fragmentSize * (i + 1)) m.length)

/-- The packet of fragment `i`, 0-based: its sub-type is `(i+1)*16+1` (R223). -/
def fragmentPacket (m : List Byte) (i : Nat) : Packet :=
  packetBytes typeM ([0x00#8, 0x01#8, BitVec.ofNat 8 ((i + 1) * 16 + 1)] ++ fragmentText m i)

/-- The terminator packet (R227). -/
def terminatorPacket : Packet := packetBytes typeT []

/-- `encode_message(message)` (R223, R227, R229), refused above 180 bytes (R228). -/
def encodeMessage (m : List Byte) : Except Refusal (List Packet) :=
  if m.length ≤ maxMessage then
    .ok ((List.range (fragmentCount m.length)).map (fragmentPacket m) ++ [terminatorPacket])
  else .error .payloadTooLarge

/-- `encode_reset()` (R230). -/
def encodeReset : Packet := packetBytes typeM resetBody

/-! ## The diagnostic sequence -/

/-- A natural number in decimal digits, unpadded, as ASCII bytes (R231; 93_implementation_defined.md G3). -/
def decimalBytes (n : Nat) : List Byte := (Nat.toDigits 10 n).map (fun c => BitVec.ofNat 8 c.toNat)

/-- The marker `^Y` and the decimal index of a counter step (R231). -/
def counterText (n : Nat) : List Byte := [0x5E#8, 0x59#8] ++ decimalBytes n

/-- "Test complete." (R231; 95_test_vectors.md V46). -/
def testCompleteText : List Byte :=
  [0x54#8, 0x65#8, 0x73#8, 0x74#8, 0x20#8, 0x63#8, 0x6F#8, 0x6D#8, 0x70#8, 0x6C#8, 0x65#8, 0x74#8, 0x65#8, 0x2E#8]

/-- The texts of the 20 steps: the banner, 18 counter values, the final text (R231). -/
def diagnosticTexts (banner : List Byte) (firstIndex : Nat) : List (List Byte) :=
  [banner] ++ (List.range 18).map (fun i => counterText (firstIndex + i)) ++ [testCompleteText]

/-- A step of the diagnostic sequence: its message packet set and the host's delay after it, in milliseconds (R231, R232). -/
structure DiagStep where
  packets : List Packet
  delayMs : Nat
deriving DecidableEq, Repr

/-- The steps of the texts, in order; the first text that is refused refuses the whole. -/
def diagnosticSteps : List (List Byte) → Except Refusal (List DiagStep)
  | [] => .ok []
  | text :: rest =>
    match encodeMessage text, diagnosticSteps rest with
    | .ok ps, .ok steps => .ok (⟨ps, 1000⟩ :: steps)
    | .error e, _ => .error e
    | .ok _, .error e => .error e

/-- `encode_diagnostic_sequence()` (R231), with the OPEN banner and first index. -/
def encodeDiagnosticSequence : Except Refusal (List DiagStep) :=
  diagnosticSteps (diagnosticTexts Config.diagBanner Config.diagFirstIndex)

/-! ## Giving packets to the host -/

/-- A packet sequence as one operation of the host: each packet after the first is sent only if the one before it was (R233). -/
def packetQueue : List Packet → List QueuedPacket
  | [] => []
  | p :: rest => ⟨p, false⟩ :: rest.map (fun q => ⟨q, true⟩)

/-- `s` with the packet sequences given to the host to send, each an operation of its own, in order. -/
def givePackets (sequences : List (List Packet)) (s : State) : State :=
  { s with pkts := s.pkts ++ (sequences.map packetQueue).flatten }

/-- `s` with the packets of `encode_message m` given to the host to send, or nothing given where the message is refused (R223,
R228, R233). -/
def giveMessage (m : List Byte) (s : State) : Host.Outcome State Fault Refusal :=
  match encodeMessage m with
  | .ok packets => .next (givePackets [packets] s)
  | .error why => .refused why

/-! ## Pseudo-commands -/

/-- The word of a command whose operand is ignored: the assembler emits 0x00 there (R81, R96). -/
def plainWord (op : BitVec 4) : CmdWord := commandWord op 0x00#8

/-- `ENCODE_PACKET t, body` (R97), with L ≤ 255. -/
def encodePacketWords (t : Byte) (body : List Byte) : List CmdWord :=
  [plainWord 0x3#4, plainWord 0x1#4] ++ (packetCovered t body).map (commandWord 0x5#4) ++ [plainWord 0x6#4]

/-- `LOAD [p0, ..., p(n-1)]` (R97), with n ≤ 261. -/
def loadWords (p : List Byte) : List CmdWord := plainWord 0x3#4 :: p.map (commandWord 0x4#4)

/-- The words of `TRANSMIT [p0, ..., p(n-1)]` (R97). -/
def transmitWords (p : List Byte) : List CmdWord := loadWords p ++ [plainWord 0x7#4]

/-- The words of `SEND_PACKET t, body` (R97). -/
def sendPacketWords (t : Byte) (body : List Byte) : List CmdWord := encodePacketWords t body ++ [plainWord 0x7#4]

/-- The words of `SEND_RESET` (R97). -/
def sendResetWords : List CmdWord := sendPacketWords typeM resetBody

/-- The words of `SEND_TERMINATOR` (R97). -/
def sendTerminatorWords : List CmdWord := sendPacketWords typeT []

end Sys2Proof.Machine
end

