-- ==== Sys2Proof/Machine/Ports.lean ====
section
/-! DEFINITION. The output ports: functions of the current state alone (spec 10_state.md rule R35, 40_checksum.md rule R112),
and the level on the direction pin (10_state.md rule R22). -/

namespace Sys2Proof.Machine

/-- The code of `PHASE` on port `phase[2:0]` (R21). -/
def phaseCode : Phase → BitVec 3
  | .idle => 0
  | .pre => 1
  | .write => 2
  | .flush => 3
  | .post => 4

/-- The code of `CAUSE` on port `cause[1:0]` (R30). -/
def causeCode : Cause → BitVec 2
  | .none => 0
  | .writeFault => 1
  | .flushFault => 2
  | .flushTimeout => 3

/-- The output ports of R35. -/
structure Outputs where
  cmdReady : Bool
  busy     : Bool
  de       : Bool
  chValid  : Bool
  chData   : Byte
  sum      : Byte
  chk      : Byte
  done     : Bool
  err      : Bool
  cause    : BitVec 2
  info     : Byte
  txcnt    : Count
  pbLen    : Count
  fOvf     : Bool
  fIll     : Bool
  phase    : BitVec 3
deriving DecidableEq, Repr

/-- `cmd_ready = (PHASE = IDLE)` (R35). -/
def cmdReady (s : State) : Bool := decide (s.phase = .idle)

/-- `busy = (PHASE ≠ IDLE)` (R35). -/
def busy (s : State) : Bool := decide (s.phase ≠ .idle)

/-- `ch_valid = (PHASE = WRITE and TXCNT < PB_LEN)` (R35). -/
def chValid (s : State) : Bool := decide (s.phase = .write) && decide (s.txcnt < s.pbLen)

/-- `ch_data = PB[TXCNT]` when `ch_valid = 1`, else 0x00 (R35). -/
def chData (s : State) : Byte := if chValid s then s.pb.byteAt (offerIndex s) else 0x00#8

/-- `chk = neg8(SUM)` (R112). -/
def chk (s : State) : Byte := neg8 s.sum

/-- The outputs shown between the tick that led to `s` and the next (R9, R35). -/
def outputs (s : State) : Outputs where
  cmdReady := cmdReady s
  busy := busy s
  de := s.de
  chValid := chValid s
  chData := chData s
  sum := s.sum
  chk := chk s
  done := s.done
  err := s.err
  cause := causeCode s.cause
  info := s.info
  txcnt := s.txcnt
  pbLen := s.pbLen
  fOvf := s.fOvf
  fIll := s.fIll
  phase := phaseCode s.phase

/-- The level on the physical direction pin: `DE_ACTIVE_LEVEL` while `DE = 1`, its complement otherwise (R7, R22). -/
def directionPin (s : State) : Bool := if s.de then Config.deActiveLevel else !Config.deActiveLevel

end Sys2Proof.Machine
end

