-- ==== Sys2Proof/Machine/HostProgram.lean ====
section
/-! DEFINITION. The host that runs a program (spec 30_encoding.md rules R96, R97): it presents the commands in order, each held
until a tick accepts it (43_status_system.md rule R213), `WAIT` presents nothing until `busy = 0`, and reading `err = 1` ends
the operation with a `TransportError` (44_host_encoder.md rule R233). The host is outside the block; its program is not state
of SRTX (R36). What the spec leaves to the host is an argument, its policy. -/

namespace Sys2Proof.Machine

/-- One line of a host program. -/
inductive HostOp where
  /-- present this word until it is accepted (R96, R213) -/
  | command (w : CmdWord)
  /-- present nothing until `busy = 0` (R97) -/
  | wait
  /-- read `done`, `err`, `cause`, `info`: a failed session is terminal for the operation (R97, R233, R295) -/
  | readStatus
  /-- present nothing for this many ticks: the delay between diagnostic steps, which is the host's (R232) -/
  | delay (ticks : Nat)
deriving DecidableEq, Repr

/-- An operation of the document, expanded (R97): what a failed session ends (R233). -/
abbrev Operation := List HostOp

/-- The `TransportError` the caller gets: the status ports as the host read them (R97, R233, R255). -/
structure TransportError where
  cause : BitVec 2
  info  : Byte
  txcnt : Count
deriving DecidableEq, Repr

/-- What the host reads after a failed session. -/
def transportError (s : State) : TransportError := ⟨causeCode s.cause, s.info, s.txcnt⟩

/-- What can break into a host's program. -/
inductive HostEvent where
  /-- a session has failed, and the caller has got this error (R233) -/
  | failed (e : TransportError)
  /-- reset has come while an operation was in hand -/
  | reset
  /-- the host has read `done = err = 0` with no session running: reset has cut its session off (R281) -/
  | cutOff
deriving DecidableEq, Repr

/-- The host's decisions, which the spec leaves to it. R233: the caller "decides what to do with the remaining packets"; R261: it
may send the same buffer again, build another packet, or stop; of a reset the spec says nothing. From everything that has broken
into the program, the latest last, what was left of the operation in hand, and the operations after it, the policy gives the
operations the host goes on with. DESIGN CHOICE (log entry 28): a decision depends on these three, and on nothing else. -/
abbrev HostPolicy := List HostEvent → Operation → List Operation → List Operation

/-- The reference reading (R233, D30): a failed operation is terminated, its remaining packets are not sent. DESIGN CHOICE (log
entry 28): the later operations are kept, an operation that reset has cut off ends too, and at the reset itself the host holds on
to its program. -/
def referencePolicy : HostPolicy := fun events ops later =>
  match events.getLast? with
  | some .reset => ops :: later
  | _ => later

/-- A host running its program. -/
structure HostProgram where
  /-- what is left of the operation in hand, then the operations after it -/
  operations : List Operation
  /-- what has broken into the program, oldest first; the caller has got the errors in it -/
  events     : List HostEvent
deriving DecidableEq, Repr

/-- The host meets an event with `ops` left of the operation in hand and `later` after it, and goes on as it decides. -/
def meet (policy : HostPolicy) (h : HostProgram) (e : HostEvent) (ops : Operation) (later : List Operation) : HostProgram :=
  ⟨policy (h.events ++ [e]) ops later, h.events ++ [e]⟩

/-- What an operation does next, seeing the outputs of a state. -/
inductive HostMove where
  /-- presents `w`; `rest` is left once it is accepted -/
  | present (w : CmdWord) (rest : Operation)
  /-- presents nothing; `rest` is left after the tick -/
  | idle (rest : Operation)
  /-- has nothing left to do -/
  | finished
  /-- has read `err = 1`; `rest` is left -/
  | failed (rest : Operation)
  /-- has read `done = err = 0` with no session running: reset has cut its session off (R281); `rest` is left -/
  | cutOff (rest : Operation)
deriving DecidableEq, Repr

/-- The next move of an operation. DESIGN CHOICE (log entry 28): R97 has the host read the status only after `WAIT`; a program that
reads it with no `WAIT` before, while `busy = 1`, sees `done = err = 0` of a session still running and goes on with its next line,
neither waiting nor ending the operation. -/
def operationMove : Operation → State → HostMove
  | [], _ => .finished
  | .command w :: rest, _ => .present w rest
  | .wait :: rest, s => if busy s then .idle (.wait :: rest) else operationMove rest s
  | .delay 0 :: rest, s => operationMove rest s
  | .delay (n + 1) :: rest, _ => .idle (.delay n :: rest)
  | .readStatus :: rest, s =>
    if s.err then .failed rest else if s.done || busy s then operationMove rest s else .cutOff rest

/-- The next move of a program, and the operations after the one that makes it; a finished operation gives way to the next. -/
def programMove : List Operation → State → HostMove × List Operation
  | [], _ => (.finished, [])
  | ops :: later, s =>
    match operationMove ops s with
    | .finished => programMove later s
    | move => (move, later)

/-- What the host presents at the next tick: `cmd_valid` and `cmd`. -/
def hostPort (h : HostProgram) (s : State) : Bool × CmdWord :=
  match (programMove h.operations s).1 with
  | .present w _ => (true, w)
  | _ => (false, 0x000#12)

/-- The sample of a tick in which the host runs its program; `x` gives `rst` and the channel's inputs. -/
def hostSample (h : HostProgram) (x : Inputs) (s : State) : Inputs :=
  { x with cmdValid := (hostPort h s).1, cmd := (hostPort h s).2 }

/-- The host goes on with `ops`, its operation in hand, and `later`; where the tick was a reset it does as it decides (log entry
28). -/
def holdOn (policy : HostPolicy) (h : HostProgram) (rst : Bool) (ops : Operation) (later : List Operation) : HostProgram :=
  if rst then meet policy h .reset ops later else { h with operations := ops :: later }

/-- The host after a tick with the sample `x` at state `s`. A tick with `rst = 1` accepts nothing (R213, R280), but what the
ports showed before it has been read: `err = 1` breaks into the operation at that tick too. -/
def hostNext (policy : HostPolicy) (h : HostProgram) (x : Inputs) (s : State) : HostProgram :=
  match programMove h.operations s with
  | (.present w rest, later) =>
    holdOn policy h x.rst (if cmdReady s && !x.rst then rest else .command w :: rest) later
  | (.idle rest, later) => holdOn policy h x.rst rest later
  | (.finished, later) => { h with operations := later }
  | (.failed rest, later) => meet policy h (.failed (transportError s)) rest later
  | (.cutOff rest, later) => meet policy h .cutOff rest later

/-- Ticks with the host running its program, one for each environment sample. -/
def hostRun (policy : HostPolicy) : HostProgram → List Inputs → State → Host.Outcome (HostProgram × State) Fault Refusal
  | h, [], s => .next (h, s)
  | h, x :: xs, s =>
    match tick (hostSample h x s) s with
    | .next t => hostRun policy (hostNext policy h x s) xs t
    | .fault f => .fault f
    | .refused r => .refused r

/-! ## The operations -/

/-- The last three lines of `TRANSMIT` and `SEND_PACKET` (R97). -/
def sessionOps : Operation := [.command (plainWord 0x7#4), .wait, .readStatus]

/-- `TRANSMIT packet` for a packet of at most 261 bytes (R97, R98). -/
def transmitPacketOps (p : Packet) : Operation := (loadWords p).map .command ++ sessionOps

/-- `TRANSMIT packet` (R97, R98); `LOAD` is defined for at most 261 bytes. -/
def transmitOps (p : Packet) : Option Operation := if p.length ≤ 261 then some (transmitPacketOps p) else none

/-- A packet sequence, transmitted packet after packet, each in its own session, in the order returned (R233): one operation,
so in the reference reading the packets after a failed one are not sent. -/
def transmitSequenceOps (ps : List Packet) : Operation := (ps.map transmitPacketOps).flatten

/-- `encode_message` and the transmission of every packet it returns (R223, R233); nothing is issued for a message it refuses
(R228). -/
def transmitMessageOps (m : List Byte) : Except Refusal Operation := (encodeMessage m).map transmitSequenceOps

/-- The transmission of a diagnostic sequence (R231 to R233): each message packet set an operation of its own (DESIGN CHOICE, log
entry 28), in order, each followed by its delay. The delay is the host's (R232) and the spec gives it no number of ticks: how many
ticks the host waits for a delay in milliseconds is an argument, 0 where it does not replicate the delay. -/
def transmitDiagnosticOps (ticksOf : Nat → Nat) (steps : List DiagStep) : List Operation :=
  (steps.map (fun st => [transmitSequenceOps st.packets, [.delay (ticksOf st.delayMs)]])).flatten

/-- `SEND_PACKET t, body` (R97). -/
def sendPacketOps (t : Byte) (body : List Byte) : Except Refusal Operation :=
  if body.length ≤ 255 then .ok ((encodePacketWords t body).map .command ++ sessionOps) else .error .bodyTooLarge

/-- `SEND_RESET` (R97). -/
def sendResetOps : Operation := (encodePacketWords typeM resetBody).map .command ++ sessionOps

/-- `SEND_TERMINATOR` (R97). -/
def sendTerminatorOps : Operation := (encodePacketWords typeT []).map .command ++ sessionOps

/-- `SEND_PACKET` of fragment number i + 1 of a message (R97). -/
def sendFragmentOps (m : List Byte) (i : Nat) : Operation :=
  (encodePacketWords typeM ([0x00#8, 0x01#8, BitVec.ofNat 8 (16 * (i + 1) + 1)] ++ fragmentText m i)).map .command ++ sessionOps

/-- `SEND_MESSAGE m` with `len(m) ≤ 180` (R97), one operation; a longer message is refused before any command is issued
(R228). -/
def sendMessageOps (m : List Byte) : Except Refusal Operation :=
  if m.length ≤ maxMessage then
    .ok (((List.range (fragmentCount m.length)).map (sendFragmentOps m)).flatten ++ sendTerminatorOps)
  else .error .payloadTooLarge

end Sys2Proof.Machine
end

