-- ==== Sys2Proof/Machine/Events.lean ====
section
/-! DEFINITION. The document's level of description: the calls a mock channel records, read off the steps of a session (spec
42_transmit_sequencer.md rule R180). -/

namespace Sys2Proof.Machine

/-- A call of the document's Transport on its collaborators (R180). -/
inductive Call where
  /-- `assert_direction(b)` -/
  | assertDirection (b : Bool)
  /-- `delay(10ms)`, a whole guard interval -/
  | delay
  /-- `write(bytes)`, returned -/
  | write (bytes : List Byte)
  /-- `write` raising after these bytes were taken -/
  | writeRaising (bytes : List Byte)
  /-- `flush()`, returned -/
  | flush
  /-- `flush()` raising -/
  | flushRaising
deriving DecidableEq, Repr

/-- The bytes transferred in the session that `s` is in or has just ended: the last `TXCNT` the channel took. -/
def sessionBytes (s : State) : List Byte := s.taken.drop (s.taken.length - s.txcnt.toNat)

/-- The calls that the step from `s` to `t` completes (R180). A session that reset cuts off ends with the direction
de-asserted and no record (R281). -/
def callsBetween (s t : State) : List Call :=
  match s.phase, t.phase with
  | .idle, .pre => [.assertDirection true]
  | .pre, .write => [.delay]
  | .write, .flush => [.write (sessionBytes t)]
  | .flush, .post => [.flush]
  | .post, .idle => if t.done then [.delay, .assertDirection false] else [.assertDirection false]
  | .write, .idle => if t.err then [.writeRaising (sessionBytes t), .assertDirection false] else [.assertDirection false]
  | .flush, .idle => if t.err then [.flushRaising, .assertDirection false] else [.assertDirection false]
  | .pre, .idle => [.assertDirection false]
  | _, _ => []

/-- The calls of at most `n` steps from `s`, up to the step that returns the machine to IDLE. -/
def sessionCalls : Nat → State → List Call
  | 0, _ => []
  | n + 1, s =>
    match step s with
    | .next t => callsBetween s t ++ (if t.phase = .idle then [] else sessionCalls n t)
    | .fault _ => []
    | .refused _ => []

end Sys2Proof.Machine
end

