-- ==== Sys2Proof/Safety.lean ====
section
/-! DEFINITION. What holds in every state of a run (spec 10_state.md rule R38), what a session shows to the outside (rule R39),
and what the channel has promised (42_transmit_sequencer.md rules R175 to R177), in the terms the statements use. -/

namespace Sys2Proof.Machine

/-- `n` steps, stopping at the first fault or refusal. -/
def run : Nat → State → Result
  | 0, s => .next s
  | n + 1, s =>
    match step s with
    | .next t => run n t
    | .fault f => .fault f
    | .refused r => .refused r

/-- Instructions presented one after another, each at the state the one before it left. -/
def execAll : List Instr → State → Result
  | [], s => .next s
  | i :: is, s =>
    match exec i s with
    | .next t => execAll is t
    | .fault f => .fault f
    | .refused r => .refused r

/-- The invariants of R38, for the configuration `P`, with the model's own beside them. -/
structure Inv (P : Params) (s : State) : Prop where
  /-- R38 (a) -/
  deIffBusy : s.de = true ↔ s.phase ≠ .idle
  /-- R38 (c) while a session runs. DEDUCED (log entry 21): in IDLE it is false of the machine of R130, whose `PB.CLR` empties the
  buffer and leaves `TXCNT` untouched. -/
  txcntLe : s.phase ≠ .idle → s.txcnt.toNat ≤ s.pbLen.toNat
  /-- R24: `TXCNT` is 0 to 261 -/
  txcntCap : s.txcnt.toNat ≤ pbCap
  /-- R38 (c) -/
  pbLenLe : s.pbLen.toNat ≤ pbCap
  /-- R38 (d) -/
  errDone : s.err = true → s.done = true
  /-- R38 (e) -/
  causeIffErr : s.cause ≠ .none ↔ s.err = true
  /-- R38 (e) -/
  infoZero : s.err = false → s.info = 0x00#8
  /-- R38 (f) -/
  gtZero : s.phase = .idle ∨ s.phase = .write → s.gt = 0
  /-- R38 (f), with the bound that R161 counts down from -/
  gtPre : s.phase = .pre → 1 ≤ s.gt ∧ s.gt ≤ P.preTicks
  /-- R38 (f), with the bound that R165 counts down from -/
  gtPost : s.phase = .post → 1 ≤ s.gt ∧ s.gt ≤ P.postTicks
  /-- R38 (f) -/
  gtFlush : s.phase = .flush → s.gt ≤ P.flushTmo ∧ (P.flushTmo ≠ 0 → 1 ≤ s.gt)
  /-- R38 (g) -/
  busyClear : s.phase ≠ .idle → s.done = false ∧ s.err = false
  /-- the buffer is in canonical form and holds no byte outside `PB[0..260]` (R60) -/
  pbWf : s.pb.wf = true
  /-- every valid byte has been written: the sequencer reads no unspecified byte (R12, R25) -/
  validWritten : ∀ i, i < s.pbLen.toNat → (s.pb.read i).isSome = true

/-- What a session shows to the outside (R39). -/
structure SessionView where
  de      : Bool
  chValid : Bool
  chData  : Byte
  busy    : Bool
  done    : Bool
  err     : Bool
  cause   : BitVec 2
  info    : Byte
  txcnt   : Count
deriving DecidableEq, Repr

/-- The session outputs of a state (R39). -/
def sessionView (s : State) : SessionView :=
  ⟨s.de, chValid s, chData s, busy s, s.done, s.err, causeCode s.cause, s.info, s.txcnt⟩

/-- The session outputs of at most `n` steps from `s`, up to and including the state that is back in IDLE. -/
def sessionViews : Nat → State → List SessionView
  | 0, s => [sessionView s]
  | n + 1, s =>
    sessionView s ::
      (if s.phase = .idle then []
       else match step s with
         | .next t => sessionViews n t
         | .fault _ => []
         | .refused _ => [])

/-- Two states hold the same packet: the same `PB_LEN` and the same bytes below it. -/
def SamePacket (s t : State) : Prop :=
  s.pbLen = t.pbLen ∧ ∀ i, i < s.pbLen.toNat → s.pb.byteAt i = t.pb.byteAt i

/-- A sample of a channel that is always ready, always drained and never fails, with no reset. -/
def cooperative (x : Inputs) : Bool := !x.rst && !x.chFault && x.chReady && x.chIdle

/-- A sample of a channel that never takes a byte and never fails, with no reset (R183). -/
def stalling (x : Inputs) : Bool := !x.rst && !x.chFault && !x.chReady

/-- A sample of a channel that never drains and never fails, with no reset (R183). -/
def undrained (x : Inputs) : Bool := !x.rst && !x.chFault && !x.chIdle

/-- THE CHANNEL'S PROMISE on `ch_idle` at one tick (R176): it reads 1 exactly when every byte ever taken has left completely;
`left` is how many have. A premise of claims about the line, never built into the machine. -/
def idleTruthful (left : Nat) (x : Inputs) (s : State) : Prop :=
  left ≤ s.taken.length ∧ (x.chIdle = true ↔ left = s.taken.length)

/-- `s` with the packet of type `t` and body `body` in the buffer and the session on it just started. -/
def sessionOnPacket (P : Params) (t : Byte) (body : List Byte) (s : State) : State :=
  { s with
    pb := s.pb.writeAll 0 (packetBytes t body), pbLen := BitVec.ofNat 9 (6 + body.length), sum := 0x00#8
    txcnt := 0#9, done := false, err := false, cause := .none, info := 0x00#8
    de := true, gt := P.preTicks, phase := .pre }

end Sys2Proof.Machine
end

