-- ==== Sys2Proof/Certificates/Slice0/Obligations.lean ====
section
/-! DEFINITION. The statements for the provers, from the numbered rules of the spec. A result statement names the whole next
state, so it is at once the instruction's completion and its frame: a field the record update does not name keeps its value.
`s.phase ≠ .idle` stands beside every command's effect: there the command is not accepted (R213, R214). -/

open Sys2Proof Sys2Proof.Machine

/-! ## Encodings -/

/-- R82, with R80's fields: the match and mask columns of the table decide the command, and the operand byte is `cmd[7:0]`. -/
def Obligations.CommandTableDecodes : Prop :=
  ∀ w : CmdWord, w = commandWord (opField w) (dField w) ∧
    (w &&& 0xF00#12 = 0x000#12 → decodeCommand w = .nop (dField w)) ∧
    (w &&& 0xF00#12 = 0x100#12 → decodeCommand w = .csClr (dField w)) ∧
    (w &&& 0xF00#12 = 0x200#12 → decodeCommand w = .csAdd (dField w)) ∧
    (w &&& 0xF00#12 = 0x300#12 → decodeCommand w = .pbClr (dField w)) ∧
    (w &&& 0xF00#12 = 0x400#12 → decodeCommand w = .pbPush (dField w)) ∧
    (w &&& 0xF00#12 = 0x500#12 → decodeCommand w = .pkPush (dField w)) ∧
    (w &&& 0xF00#12 = 0x600#12 → decodeCommand w = .pkFin (dField w)) ∧
    (w &&& 0xF00#12 = 0x700#12 → decodeCommand w = .txSend (dField w)) ∧
    (w &&& 0xF00#12 = 0x800#12 → decodeCommand w = .stClr (dField w)) ∧
    (w &&& 0xF00#12 = 0x900#12 → decodeCommand w = .reserved9 (dField w)) ∧
    (w &&& 0xF00#12 = 0xA00#12 → decodeCommand w = .reservedA (dField w)) ∧
    (w &&& 0xF00#12 = 0xB00#12 → decodeCommand w = .reservedB (dField w)) ∧
    (w &&& 0xF00#12 = 0xC00#12 → decodeCommand w = .reservedC (dField w)) ∧
    (w &&& 0xF00#12 = 0xD00#12 → decodeCommand w = .reservedD (dField w)) ∧
    (w &&& 0xF00#12 = 0xE00#12 → decodeCommand w = .reservedE (dField w)) ∧
    (w &&& 0xF00#12 = 0xF00#12 → decodeCommand w = .reservedF (dField w))

/-- Decoding an encoded well-formed instruction gives it back, with every operand at every value its encoding admits. -/
def Obligations.DecodeOfEncode : Prop :=
  ∀ i : Instr, wellFormed i = true → decode (encode i) = .ok i

/-- What decodes has one meaning: it is the encoding of the well-formed instruction it decodes to. -/
def Obligations.EncodeOfDecode : Prop :=
  ∀ (p : Presented) (i : Instr), decode p = .ok i → wellFormed i = true ∧ encode i = p

/-- A few words and packets written out from the spec: the example of R96, the example of R212, the packets of R93, R94 and
a fragment of vector V41. -/
def Obligations.WrittenOutWordsDecode : Prop :=
  decode (.command 0x54D#12) = .ok (.pkPush 0x4D#8) ∧
  decode (.command 0x700#12) = .ok (.txSend 0x00#8) ∧
  decode (.command 0xA37#12) = .ok (.reservedA 0x37#8) ∧
  decode (.packet [0x4D#8, 0xC3#8, 0xFF#8, 0xF5#8, 0x03#8, 0x00#8, 0x01#8, 0x00#8, 0xF8#8]) = .ok .pktMReset ∧
  decode (.packet [0x54#8, 0xC3#8, 0xFF#8, 0xF5#8, 0x00#8, 0xF5#8]) = .ok .pktT ∧
  decode (.packet [0x4D#8, 0xC3#8, 0xFF#8, 0xF5#8, 0x04#8, 0x00#8, 0x01#8, 0x11#8, 0x41#8, 0xA5#8])
    = .ok (.pktMFrag 1#4 [0x41#8]) ∧
  decode (.packet [0x49#8, 0xC3#8, 0xFF#8, 0xF5#8, 0x00#8, 0x00#8]) = .ok (.pkt 0x49#8 [])

/-! ## The accumulator -/

/-- R110. -/
def Obligations.CsClrClearsSum : Prop :=
  ∀ (d : Byte) (s : State),
    decodeCommand (commandWord 0x1#4 d) = .csClr d ∧
    (s.phase = .idle → exec (.csClr d) s = .next { s with sum := 0x00#8 } ∧
      (outputs { s with sum := 0x00#8 }).sum = 0x00#8 ∧ (outputs { s with sum := 0x00#8 }).chk = 0x00#8) ∧
    (s.phase ≠ .idle → exec (.csClr d) s = .next s)

/-- R111. -/
def Obligations.CsAddAddsModulo256 : Prop :=
  ∀ (d : Byte) (s : State),
    decodeCommand (commandWord 0x2#4 d) = .csAdd d ∧
    (s.phase = .idle →
      exec (.csAdd d) s = .next { s with sum := BitVec.ofNat 8 ((s.sum.toNat + d.toNat) % 256) }) ∧
    (s.phase ≠ .idle → exec (.csAdd d) s = .next s)

/-- R112: at every state `chk` is the byte that, added to `SUM` modulo 256, gives 0, and `sum` is `SUM`. -/
def Obligations.ChkPortInvertsSum : Prop :=
  ∀ s : State, (outputs s).sum = s.sum ∧ (outputs s).chk.toNat = (256 - s.sum.toNat) % 256 ∧
    (s.sum.toNat + (outputs s).chk.toNat) % 256 = 0

/-- R115: the three forms of the inversion (the second and third are the spec's own inference). -/
def Obligations.InversionHasThreeForms : Prop :=
  ∀ a : Byte, neg8 a = BitVec.ofNat 8 ((256 - a.toNat % 256) % 256) ∧ neg8 a = 0x00#8 - a ∧ neg8 a = (a ^^^ 0xFF#8) + 0x01#8

/-- R114 (the spec marks it as derived): `CS.CLR` and then one `CS.ADD` for each byte leaves the document's
`sum(...) mod 256`, in whatever order the bytes are added; nothing else changes. -/
def Obligations.AccumulatorIsDocumentSum : Prop :=
  ∀ (d : Byte) (bs cs : List Byte) (s : State), s.phase = .idle →
    execAll (.csClr d :: bs.map .csAdd) s = .next { s with sum := BitVec.ofNat 8 (docSum bs % 256) } ∧
    (bs.Perm cs → execAll (.csClr d :: cs.map .csAdd) s = execAll (.csClr d :: bs.map .csAdd) s)

/-- R116 (the converse is the spec's own inference): the accumulated bytes followed by `chk` sum to 0 modulo 256, and `chk` is
the only byte that does it. -/
def Obligations.ChecksumInvariantAndUniqueness : Prop :=
  ∀ (d : Byte) (bs : List Byte) (s t : State), s.phase = .idle → execAll (.csClr d :: bs.map .csAdd) s = .next t →
    docSum (bs ++ [(outputs t).chk]) % 256 = 0 ∧
    ∀ c : Byte, docSum (bs ++ [c]) % 256 = 0 → c = (outputs t).chk

/-- R118: `SUM` changes at a tick only by reset, `CS.CLR`, `CS.ADD`, a successful `PK.PUSH` or a successful `PK.FIN`; so not by
another command, not by a phase of a session and not by a fault. -/
def Obligations.SumHasFiveWriters : Prop :=
  ∀ (x : Inputs) (s t : State), tick x s = .next t → t.sum ≠ s.sum →
    x.rst = true ∨ (x.rst = false ∧ s.phase = .idle ∧ x.cmdValid = true ∧
      (∃ d, decodeCommand x.cmd = .csClr d ∨ decodeCommand x.cmd = .csAdd d ∨
        (s.pbLen.toNat < 261 ∧ (decodeCommand x.cmd = .pkPush d ∨ decodeCommand x.cmd = .pkFin d))))

/-! ## The packet buffer and the framer -/

/-- R130. -/
def Obligations.PbClrEmptiesBuffer : Prop :=
  ∀ (d : Byte) (s : State),
    decodeCommand (commandWord 0x3#4 d) = .pbClr d ∧
    (s.phase = .idle → exec (.pbClr d) s = .next { s with pbLen := 0#9 }) ∧
    (s.phase ≠ .idle → exec (.pbClr d) s = .next s)

/-- R131, and R134 for it: the byte is stored at index `PB_LEN`; every other byte and register keeps its value. -/
def Obligations.PbPushAppends : Prop :=
  ∀ (d : Byte) (s : State),
    decodeCommand (commandWord 0x4#4 d) = .pbPush d ∧
    (s.phase = .idle → s.pbLen.toNat < 261 →
      exec (.pbPush d) s = .next { s with pb := s.pb.write s.pbLen.toNat d, pbLen := s.pbLen + 1#9 } ∧
      (s.pb.write s.pbLen.toNat d).read s.pbLen.toNat = some d ∧
      (∀ a, a ≠ s.pbLen.toNat → (s.pb.write s.pbLen.toNat d).read a = s.pb.read a) ∧
      (s.pbLen + 1#9).toNat = s.pbLen.toNat + 1) ∧
    (s.phase = .idle → ¬ s.pbLen.toNat < 261 → exec (.pbPush d) s = .next { s with fOvf := true }) ∧
    (s.phase ≠ .idle → exec (.pbPush d) s = .next s)

/-- R132, and R134 for it. -/
def Obligations.PkPushAppendsAndAdds : Prop :=
  ∀ (d : Byte) (s : State),
    decodeCommand (commandWord 0x5#4 d) = .pkPush d ∧
    (s.phase = .idle → s.pbLen.toNat < 261 →
      exec (.pkPush d) s = .next { s with
        pb := s.pb.write s.pbLen.toNat d, pbLen := s.pbLen + 1#9, sum := BitVec.ofNat 8 ((s.sum.toNat + d.toNat) % 256) }) ∧
    (s.phase = .idle → ¬ s.pbLen.toNat < 261 → exec (.pkPush d) s = .next { s with fOvf := true }) ∧
    (s.phase ≠ .idle → exec (.pkPush d) s = .next s)

/-- R133, and R134 for it: the byte stored is `neg8(SUM)`, and `SUM` is 0x00 afterwards. -/
def Obligations.PkFinAppendsChecksum : Prop :=
  ∀ (d : Byte) (s : State),
    decodeCommand (commandWord 0x6#4 d) = .pkFin d ∧
    (s.phase = .idle → s.pbLen.toNat < 261 →
      exec (.pkFin d) s = .next { s with
        pb := s.pb.write s.pbLen.toNat (BitVec.ofNat 8 ((256 - s.sum.toNat) % 256)), pbLen := s.pbLen + 1#9, sum := 0x00#8 }) ∧
    (s.phase = .idle → ¬ s.pbLen.toNat < 261 → exec (.pkFin d) s = .next { s with fOvf := true }) ∧
    (s.phase ≠ .idle → exec (.pkFin d) s = .next s)

/-- R134: a push into a full buffer sets `F_OVF` and changes nothing else; the flag stays until `ST.CLR` or reset; a later
`TX.SEND` is not blocked by it. -/
def Obligations.OverflowDropsPushWhole : Prop :=
  (∀ (d : Byte) (s : State), s.phase = .idle → s.pbLen.toNat = 261 →
    exec (.pbPush d) s = .next { s with fOvf := true } ∧ exec (.pkPush d) s = .next { s with fOvf := true } ∧
    exec (.pkFin d) s = .next { s with fOvf := true }) ∧
  (∀ (x : Inputs) (s t : State), s.fOvf = true → tick x s = .next t → t.fOvf = false →
    x.rst = true ∨ (s.phase = .idle ∧ x.cmdValid = true ∧ ∃ d, decodeCommand x.cmd = .stClr d)) ∧
  (∀ (d : Byte) (s : State), s.phase = .idle → s.fOvf = true →
    ∃ t, exec (.txSend d) s = .next t ∧ t.phase = .pre ∧ t.fOvf = true)

/-- The frame of the three storing commands: only byte `PB_LEN` of the buffer can change, and of the registers only `PB_LEN`,
`F_OVF`, and `SUM` for the two framer commands. -/
def Obligations.PushFrame : Prop :=
  ∀ (d : Byte) (i : Instr) (s t : State), (i = .pbPush d ∨ i = .pkPush d ∨ i = .pkFin d) → exec i s = .next t →
    (∀ a, a ≠ storeIndex s → t.pb.read a = s.pb.read a) ∧
    (s.phase ≠ .idle ∨ ¬ s.pbLen.toNat < 261 → ∀ a, t.pb.read a = s.pb.read a) ∧
    (i = .pbPush d → t.sum = s.sum) ∧
    t.phase = s.phase ∧ t.de = s.de ∧ t.gt = s.gt ∧ t.txcnt = s.txcnt ∧ t.done = s.done ∧ t.err = s.err ∧
    t.cause = s.cause ∧ t.info = s.info ∧ t.fIll = s.fIll ∧ (s.fOvf = true → t.fOvf = true) ∧
    t.taken = s.taken ∧ t.inq = s.inq ∧ t.pkts = s.pkts ∧ t.draws = s.draws

/-- The frame of the commands that store nothing: every byte of the buffer reads as before, and each leaves every register
but its own. -/
def Obligations.NonStoringCommandFrame : Prop :=
  ∀ (d : Byte) (i : Instr) (s t : State),
    (i = .nop d ∨ i = .csClr d ∨ i = .csAdd d ∨ i = .pbClr d ∨ i = .txSend d ∨ i = .stClr d ∨ i = .reserved9 d ∨
      i = .reservedA d ∨ i = .reservedB d ∨ i = .reservedC d ∨ i = .reservedD d ∨ i = .reservedE d ∨ i = .reservedF d) →
    exec i s = .next t →
    (∀ a, t.pb.read a = s.pb.read a) ∧
    (i ≠ .txSend d → t.phase = s.phase ∧ t.de = s.de ∧ t.gt = s.gt ∧ t.txcnt = s.txcnt) ∧
    (i ≠ .pbClr d → t.pbLen = s.pbLen) ∧
    (i ≠ .csClr d → i ≠ .csAdd d → t.sum = s.sum) ∧
    (i ≠ .txSend d → i ≠ .stClr d → t.done = s.done ∧ t.err = s.err ∧ t.cause = s.cause ∧ t.info = s.info) ∧
    (i ≠ .stClr d → t.fOvf = s.fOvf ∧ (s.fIll = true → t.fIll = true)) ∧
    (i = .nop d ∨ i = .csClr d ∨ i = .csAdd d ∨ i = .pbClr d ∨ i = .txSend d → t.fIll = s.fIll) ∧
    t.taken = s.taken ∧ t.inq = s.inq ∧ t.pkts = s.pkts ∧ t.draws = s.draws

/-- R61: no tick changes a byte already pushed, and a tick leaves `PB_LEN` as it is, adds one to it, or makes it 0. -/
def Obligations.BufferIsAppendOnly : Prop :=
  ∀ (x : Inputs) (s t : State), s.pbLen.toNat ≤ 261 → tick x s = .next t →
    (∀ a, a < s.pbLen.toNat → t.pb.read a = s.pb.read a) ∧
    (t.pbLen = s.pbLen ∨ t.pbLen.toNat = s.pbLen.toNat + 1 ∨ t.pbLen = 0#9)

/-- R135 (the spec marks it as derived): the commands of `ENCODE_PACKET t, body` are 8 + L commands that leave the packet of
`encode_packet(t, body)` in the buffer, `PB_LEN = 6 + L` and `SUM = 0`; the bytes above and every other register are kept. -/
def Obligations.EncodePacketBuildsThePacket : Prop :=
  ∀ (t : Byte) (body : List Byte) (s : State), s.phase = .idle → body.length ≤ 255 →
    (encodePacketWords t body).length = 8 + body.length ∧
    ∃ u, execAll ((encodePacketWords t body).map decodeCommand) s = .next u ∧
      .ok (validBytes u) = encodePacket t body ∧ u.pbLen.toNat = 6 + body.length ∧ u.sum = 0x00#8 ∧
      (∀ a, 6 + body.length ≤ a → u.pb.read a = s.pb.read a) ∧
      u = { s with pb := u.pb, pbLen := u.pbLen, sum := u.sum }

/-- R97, R98 (`LOAD`): loading at most 261 bytes leaves exactly them in the buffer and does not touch `SUM`. -/
def Obligations.LoadFillsTheBuffer : Prop :=
  ∀ (p : List Byte) (s : State), s.phase = .idle → p.length ≤ 261 →
    ∃ u, execAll ((loadWords p).map decodeCommand) s = .next u ∧ validBytes u = p ∧ u.pbLen.toNat = p.length ∧
      (∀ a, p.length ≤ a → u.pb.read a = s.pb.read a) ∧
      u = { s with pb := u.pb, pbLen := u.pbLen }

/-! ## The wire packet forms -/

/-- A packet form is `SEND_PACKET` (R97; that it is run as one step is the model's choice, log entry 10): in IDLE it leaves the
packet of R86 in the buffer and the session started, as `sessionOnPacket` says. A body longer than 255 bytes is refused
(R222); while a session runs the host's commands wait. -/
def Obligations.PacketFormSendsItsPacket : Prop :=
  (∀ (t : Byte) (body : List Byte) (s : State),
    (s.phase = .idle → body.length ≤ 255 → exec (.pkt t body) s = .next (sessionOnPacket Config.params t body s)) ∧
    (s.phase ≠ .idle → body.length ≤ 255 → exec (.pkt t body) s = .next s) ∧
    (255 < body.length → exec (.pkt t body) s = .refused .bodyTooLarge)) ∧
  (∀ (k : BitVec 4) (text : List Byte) (s : State),
    (s.phase = .idle → text.length ≤ 252 → exec (.pktMFrag k text) s = .next (sessionOnPacket Config.params 0x4D#8
      ([0x00#8, 0x01#8, BitVec.ofNat 8 (16 * k.toNat + 1)] ++ text) s)) ∧
    (s.phase ≠ .idle → text.length ≤ 252 → exec (.pktMFrag k text) s = .next s) ∧
    (252 < text.length → exec (.pktMFrag k text) s = .refused .bodyTooLarge)) ∧
  (∀ s : State,
    (s.phase = .idle →
      exec .pktMReset s = .next (sessionOnPacket Config.params 0x4D#8 [0x00#8, 0x01#8, 0x00#8] s) ∧
      exec .pktT s = .next (sessionOnPacket Config.params 0x54#8 [] s)) ∧
    (s.phase ≠ .idle → exec .pktMReset s = .next s ∧ exec .pktT s = .next s))

/-- The frame of the packet forms: the valid bytes are the packet's, byte i at index i, every byte above reads as before; the
sticky flags, the channel's record and the queues are unchanged. -/
def Obligations.PacketFormFrame : Prop :=
  ∀ (i : Instr) (t : Byte) (body : List Byte) (s u : State),
    (i = .pkt t body ∨ (i = .pktMReset ∧ t = 0x4D#8 ∧ body = [0x00#8, 0x01#8, 0x00#8]) ∨ (i = .pktT ∧ t = 0x54#8 ∧ body = []) ∨
      (∃ k text, i = .pktMFrag k text ∧ t = 0x4D#8 ∧ body = [0x00#8, 0x01#8, BitVec.ofNat 8 (16 * k.toNat + 1)] ++ text)) →
    s.phase = .idle → exec i s = .next u →
    validBytes u = packetBytes t body ∧ (∀ a, 6 + body.length ≤ a → u.pb.read a = s.pb.read a) ∧
    u.fOvf = s.fOvf ∧ u.fIll = s.fIll ∧ u.taken = s.taken ∧ u.inq = s.inq ∧ u.pkts = s.pkts ∧ u.draws = s.draws

/-- Running a packet form in one step is running its 9 + L commands tick by tick: the same state is reached (R97, R213). -/
def Obligations.PacketFormRefinesItsCommands : Prop :=
  ∀ (t : Byte) (body : List Byte) (rest : List Inputs) (s : State), s.phase = .idle → s.pkts = [] → body.length ≤ 255 →
    s.inq = (sendPacketWords t body).map commandSample ++ rest →
    run (9 + body.length) s = exec (.pkt t body) { s with inq := rest }

/-! ## The transmit sequencer -/

/-- R160. -/
def Obligations.TxSendStartsSession : Prop :=
  ∀ (d : Byte) (s : State),
    decodeCommand (commandWord 0x7#4 d) = .txSend d ∧
    (s.phase = .idle → exec (.txSend d) s = .next { s with
      done := false, err := false, cause := .none, info := 0x00#8, txcnt := 0#9, de := true,
      gt := Config.params.preTicks, phase := .pre }) ∧
    (s.phase ≠ .idle → exec (.txSend d) s = .next s)

/-- R161: the PRE tick, with `DE` and `ch_valid` as the rule says, and the exact length of the phase: `n` ticks from `GT = n`, so
`PRE_TICKS` ticks from the acceptance of `TX.SEND`. -/
def Obligations.PreGuardCountsExactly : Prop :=
  (∀ (x : Inputs) (s : State), x.rst = false → s.phase = .pre →
    chValid s = false ∧
    (s.gt = 1 → tick x s = .next { s with phase := .write, gt := 0 }) ∧
    (s.gt ≠ 1 → tick x s = .next { s with gt := s.gt - 1 })) ∧
  (∀ (s : State) (n : Nat), s.phase = .pre → s.gt = n → 1 ≤ n → n ≤ s.inq.length → (∀ x ∈ s.inq.take n, x.rst = false) →
    (∀ k, k < n → run k s = .next { s with gt := n - k, inq := s.inq.drop k }) ∧
    run n s = .next { s with phase := .write, gt := 0, inq := s.inq.drop n }) ∧
  (∀ (d : Byte) (s s0 : State), s.phase = .idle → exec (.txSend d) s = .next s0 → Config.params.preTicks ≤ s.inq.length →
    (∀ x ∈ s.inq.take Config.params.preTicks, x.rst = false) →
    (∀ k, k < Config.params.preTicks → ∃ u, run k s0 = .next u ∧ u.phase = .pre ∧ u.de = true ∧ chValid u = false) ∧
    ∃ u, run Config.params.preTicks s0 = .next u ∧ u.phase = .write ∧ u.de = true)

/-- R162: the first case that applies, in this order. -/
def Obligations.WriteTickCases : Prop :=
  ∀ (x : Inputs) (s : State), x.rst = false → s.phase = .write →
    (outputs s).chValid = decide (s.txcnt.toNat < s.pbLen.toNat) ∧
    (s.txcnt.toNat < s.pbLen.toNat → (outputs s).chData = s.pb.byteAt s.txcnt.toNat) ∧
    (x.chFault = true → tick x s = .next { s with
      de := false, phase := .idle, done := true, err := true, cause := .writeFault, info := x.chFcode, gt := 0 }) ∧
    (x.chFault = false → s.txcnt = s.pbLen →
      tick x s = .next { s with phase := .flush, gt := Config.params.flushTmo }) ∧
    (x.chFault = false → s.txcnt.toNat < s.pbLen.toNat → s.pbLen.toNat ≤ 261 → x.chReady = true →
      tick x s = .next { s with txcnt := s.txcnt + 1#9, taken := s.taken ++ [s.pb.byteAt s.txcnt.toNat] }) ∧
    (x.chFault = false → s.txcnt ≠ s.pbLen → x.chReady = false → tick x s = .next s)

/-- R163: when a byte transfer happens, and which byte it is; at every other tick the channel takes nothing. -/
def Obligations.ByteTransferHappensExactly : Prop :=
  ∀ (x : Inputs) (s t : State), tick x s = .next t →
    (s.phase = .write ∧ s.txcnt.toNat < s.pbLen.toNat ∧ x.rst = false ∧ x.chFault = false ∧ x.chReady = true →
      t.taken = s.taken ++ [(outputs s).chData] ∧ t.txcnt.toNat = s.txcnt.toNat + 1) ∧
    (¬ (s.phase = .write ∧ s.txcnt.toNat < s.pbLen.toNat ∧ x.rst = false ∧ x.chFault = false ∧ x.chReady = true) →
      t.taken = s.taken)

/-- R171, R172 (the spec marks the second as derived): a byte is on offer only in WRITE with the bus driven, a byte is taken only
with the bus driven, and an offered byte stays on offer until a transfer, a fault or a reset. -/
def Obligations.OfferStandsUntilTaken : Prop :=
  ∀ (x : Inputs) (s t : State), Inv Config.params s → tick x s = .next t →
    (chValid s = true → s.phase = .write ∧ s.de = true) ∧
    (t.taken ≠ s.taken → chValid s = true ∧ s.de = true ∧ t.de = true) ∧
    (chValid s = true → x.rst = false → x.chFault = false → x.chReady = false → chValid t = true ∧ chData t = chData s)

/-- R163, R62 (the spec marks it as derived): from the start of a session until it is over, the bytes the channel has taken are
the first `TXCNT` bytes of the buffer, in ascending index, each once. -/
def Obligations.SessionTransfersInOrder : Prop :=
  ∀ (d : Byte) (n : Nat) (s s0 t : State), Inv Config.params s → s.phase = .idle → exec (.txSend d) s = .next s0 →
    run n s0 = .next t → (∀ k u, k < n → run k s0 = .next u → u.phase ≠ .idle) →
    (t.phase ≠ .idle ∨ t.done = true →
      t.taken = s.taken ++ (validBytes s).take t.txcnt.toNat) ∧
    (t.phase = .flush ∨ t.phase = .post ∨ (t.phase = .idle ∧ t.done = true ∧ t.err = false) →
      t.taken = s.taken ++ validBytes s)

/-- R164: the first case that applies, in this order, for every value of the parameters; the machine's FLUSH tick is the one
of its own parameters. -/
def Obligations.FlushTickCases : Prop :=
  ∀ (P : Params) (x : Inputs) (s : State), s.phase = .flush →
    chValid s = false ∧
    (x.rst = false → tick x s = .next (flushTick Config.params x s)) ∧
    (x.chFault = true → flushTick P x s = { s with
      de := false, phase := .idle, done := true, err := true, cause := .flushFault, info := x.chFcode, gt := 0 }) ∧
    (x.chFault = false → x.chIdle = true → flushTick P x s = { s with phase := .post, gt := P.postTicks }) ∧
    (x.chFault = false → x.chIdle = false → P.flushTmo ≠ 0 → s.gt = 1 → flushTick P x s = { s with
      de := false, phase := .idle, done := true, err := true, cause := .flushTimeout, info := 0x00#8, gt := 0 }) ∧
    (x.chFault = false → x.chIdle = false → P.flushTmo ≠ 0 → s.gt ≠ 1 → flushTick P x s = { s with gt := s.gt - 1 }) ∧
    (x.chFault = false → x.chIdle = false → P.flushTmo = 0 → flushTick P x s = s)

/-- R164, R253: with `FLUSH_TMO = n > 0` a FLUSH phase, loaded by the hand-over of R162, in which the channel does not drain
lasts n ticks and faults at the n-th; with `FLUSH_TMO = 0` no flush timeout occurs. For every value of the parameters; the
machine's FLUSH tick is the one of its own. -/
def Obligations.FlushTimeoutAfterExactlyN : Prop :=
  (∀ (P : Params) (x : Inputs) (xs : List Inputs) (s : State), s.phase = .write → x.chFault = false → s.txcnt = s.pbLen →
    xs.length = P.flushTmo → 1 ≤ P.flushTmo → (∀ y ∈ xs, undrained y = true) →
    ∃ s0, writeTick P x s = .next s0 ∧ s0 = { s with phase := .flush, gt := P.flushTmo } ∧
      (∀ k, k < P.flushTmo →
        (xs.take k).foldl (fun u y => flushTick P y u) s0 = { s0 with gt := P.flushTmo - k }) ∧
      xs.foldl (fun u y => flushTick P y u) s0 = { s0 with
        de := false, phase := .idle, done := true, err := true, cause := .flushTimeout, info := 0x00#8, gt := 0 }) ∧
  (∀ (P : Params) (x : Inputs) (s : State), P.flushTmo = 0 → s.cause ≠ .flushTimeout →
    (flushTick P x s).cause ≠ .flushTimeout) ∧
  (∀ (x : Inputs) (s t : State), tick x s = .next t → t.cause = .flushTimeout →
    s.cause = .flushTimeout ∨ (s.phase = .flush ∧ t = flushTick Config.params x s))

/-- R165: the POST tick, and the exact length of the phase: `n` ticks from `GT = n`, so `POST_TICKS` ticks from the tick that
saw the channel drained. -/
def Obligations.PostGuardCountsExactly : Prop :=
  (∀ (x : Inputs) (s : State), x.rst = false → s.phase = .post →
    chValid s = false ∧
    (s.gt = 1 → tick x s = .next { s with de := false, phase := .idle, done := true, gt := 0 }) ∧
    (s.gt ≠ 1 → tick x s = .next { s with gt := s.gt - 1 })) ∧
  (∀ (s : State) (n : Nat), s.phase = .post → s.gt = n → 1 ≤ n → n ≤ s.inq.length → (∀ x ∈ s.inq.take n, x.rst = false) →
    (∀ k, k < n → run k s = .next { s with gt := n - k, inq := s.inq.drop k }) ∧
    run n s = .next { s with de := false, phase := .idle, done := true, gt := 0, inq := s.inq.drop n }) ∧
  (∀ (x : Inputs) (s : State), x.rst = false → s.phase = .flush → x.chFault = false → x.chIdle = true →
    Config.params.postTicks ≤ s.inq.length → (∀ y ∈ s.inq.take Config.params.postTicks, y.rst = false) →
    ∃ s0, tick x s = .next s0 ∧
      (∀ k, k < Config.params.postTicks → ∃ u, run k s0 = .next u ∧ u.phase = .post ∧ u.de = s.de) ∧
      ∃ u, run Config.params.postTicks s0 = .next u ∧ u.phase = .idle ∧ u.de = false ∧ u.done = true ∧
        u.err = s.err ∧ u.cause = s.cause ∧ u.info = s.info)

/-- R167: each phase reads only its own inputs, and these are the phases that can follow each phase. -/
def Obligations.PhasesReadAndLeadWhereTheTableSays : Prop :=
  (∀ (x y : Inputs) (s : State), x.rst = y.rst →
    (s.phase = .idle → x.cmdValid = y.cmdValid → x.cmd = y.cmd → tick x s = tick y s) ∧
    (s.phase = .pre ∨ s.phase = .post → tick x s = tick y s) ∧
    (s.phase = .write → x.chFault = y.chFault → x.chFcode = y.chFcode → x.chReady = y.chReady → tick x s = tick y s) ∧
    (s.phase = .flush → x.chFault = y.chFault → x.chFcode = y.chFcode → x.chIdle = y.chIdle → tick x s = tick y s) ∧
    (x.rst = true → tick x s = tick y s)) ∧
  (∀ (x : Inputs) (s t : State), x.rst = false → tick x s = .next t →
    (s.phase = .idle → t.phase = .idle ∨ (t.phase = .pre ∧ x.cmdValid = true ∧ ∃ d, decodeCommand x.cmd = .txSend d)) ∧
    (s.phase = .pre → t.phase = .pre ∨ t.phase = .write) ∧
    (s.phase = .write → t.phase = .write ∨ t.phase = .flush ∨ (t.phase = .idle ∧ t.err = true)) ∧
    (s.phase = .flush → t.phase = .flush ∨ t.phase = .post ∨ (t.phase = .idle ∧ t.err = true)) ∧
    (s.phase = .post → t.phase = .post ∨ t.phase = .idle))

/-- R170 (the spec marks it as derived): the shortest session. With a channel that is always ready and drained, a session
returns to IDLE exactly `PRE_TICKS + PB_LEN + 2 + POST_TICKS` ticks after its `TX.SEND`, with `DE = 1` until then, the whole
packet taken and the normal result. -/
def Obligations.ShortestSessionLength : Prop :=
  ∀ (d : Byte) (s s0 : State) (n : Nat), Inv Config.params s → s.phase = .idle → exec (.txSend d) s = .next s0 →
    n = Config.params.preTicks + s.pbLen.toNat + 2 + Config.params.postTicks →
    n ≤ s.inq.length → (∀ x ∈ s.inq.take n, cooperative x = true) →
    (∀ k, k < n → ∃ u, run k s0 = .next u ∧ u.phase ≠ .idle ∧ u.de = true) ∧
    run n s0 = .next { s with
      done := true, err := false, cause := .none, info := 0x00#8, txcnt := s.pbLen, de := false, gt := 0, phase := .idle,
      taken := s.taken ++ validBytes s, inq := s.inq.drop n }

/-- R183: while the channel withholds `ch_ready` the machine stays in WRITE with the byte on offer, and while it withholds
`ch_idle` with `FLUSH_TMO = 0` it stays in FLUSH, for as many ticks as one likes. -/
def Obligations.StuckWhileChannelWithholds : Prop :=
  (∀ (n : Nat) (s : State), s.phase = .write → s.txcnt ≠ s.pbLen → n ≤ s.inq.length →
    (∀ x ∈ s.inq.take n, stalling x = true) → run n s = .next { s with inq := s.inq.drop n }) ∧
  (∀ (P : Params) (xs : List Inputs) (s : State), s.phase = .flush → P.flushTmo = 0 → (∀ x ∈ xs, undrained x = true) →
    xs.foldl (fun u x => flushTick P x u) s = s) ∧
  (∀ (x : Inputs) (s : State), s.phase = .flush → x.rst = false → tick x s = .next (flushTick Config.params x s))

/-- R180 (the spec marks the normal list as derived): the calls of a session, whatever the inputs, are the document's six in
its order, or, where a write or a flush fails, the list up to the failure followed by the release; a reset cuts the list off
with the release alone. -/
def Obligations.SessionCallsAreTheDocuments : Prop :=
  ∀ (d : Byte) (n : Nat) (s s0 t : State), Inv Config.params s → s.phase = .idle → exec (.txSend d) s = .next s0 →
    run n s0 = .next t → (∀ k u, k < n → run k s0 = .next u → u.phase ≠ .idle) → t.phase = .idle →
    (t.done = true → t.err = false →
      callsBetween s s0 ++ sessionCalls n s0
        = [.assertDirection true, .delay, .write (validBytes s), .flush, .delay, .assertDirection false]) ∧
    (t.err = true → t.cause = .writeFault →
      callsBetween s s0 ++ sessionCalls n s0
        = [.assertDirection true, .delay, .writeRaising ((validBytes s).take t.txcnt.toNat), .assertDirection false]) ∧
    (t.err = true → t.cause ≠ .writeFault →
      callsBetween s s0 ++ sessionCalls n s0
        = [.assertDirection true, .delay, .write (validBytes s), .flushRaising, .assertDirection false]) ∧
    (t.done = false →
      ∃ calls, calls <+: [.delay, .write (validBytes s), .flush] ∧
        callsBetween s s0 ++ sessionCalls n s0 = [.assertDirection true] ++ calls ++ [.assertDirection false])

/-- R39 (the spec marks it as derived): what a session shows is a function of the packet and of the inputs sampled during it,
and of nothing else: two machines with the same packet and the same inputs to come show the same session. -/
def Obligations.SessionDependsOnPacketAndInputsOnly : Prop :=
  ∀ (d e : Byte) (n : Nat) (s t s0 t0 : State), s.phase = .idle → t.phase = .idle → SamePacket s t →
    s.inq = t.inq → s.draws = t.draws →
    exec (.txSend d) s = .next s0 → exec (.txSend e) t = .next t0 →
    sessionViews n s0 = sessionViews n t0

/-- R22: `DE` is set to 1 only by the acceptance of `TX.SEND` and cleared only by the end of POST, by a session fault and by
reset; the pin shows `DE` at the platform's active level. -/
def Obligations.DirectionSetAndClearedOnlyByTheSession : Prop :=
  (∀ (x : Inputs) (s t : State), tick x s = .next t →
    (s.de = false → t.de = true →
      x.rst = false ∧ s.phase = .idle ∧ x.cmdValid = true ∧ ∃ d, decodeCommand x.cmd = .txSend d) ∧
    (s.de = true → t.de = false →
      x.rst = true ∨ (s.phase = .post ∧ s.gt = 1) ∨
      (∃ c i, (s.phase = .write ∨ s.phase = .flush) ∧ t = raiseFault c i s))) ∧
  (∀ s : State, (outputs s).de = s.de ∧ (directionPin s = Config.deActiveLevel ↔ s.de = true))

/-! ## Faults -/

/-- R251 to R254: a session fault is recorded exactly at the ticks the rules name, and its effect is the FAULT procedure and
nothing else; `DE` falls at the tick at which `ERR` rises. -/
def Obligations.SessionFaultsAreExactlyThese : Prop :=
  ∀ (x : Inputs) (s t : State), s.err = false → tick x s = .next t →
    (t.err = true ↔ x.rst = false ∧
      ((s.phase = .write ∧ x.chFault = true) ∨ (s.phase = .flush ∧ x.chFault = true) ∨
       (s.phase = .flush ∧ x.chFault = false ∧ x.chIdle = false ∧ Config.params.flushTmo ≠ 0 ∧ s.gt = 1))) ∧
    (t.err = true → ∃ (c : Cause) (i : Byte),
      t = { s with de := false, phase := .idle, done := true, err := true, cause := c, info := i, gt := 0 } ∧
      (s.phase = .write → c = .writeFault ∧ i = x.chFcode) ∧
      (s.phase = .flush → x.chFault = true → c = .flushFault ∧ i = x.chFcode) ∧
      (s.phase = .flush → x.chFault = false → c = .flushTimeout ∧ i = 0x00#8))

/-- R69, R291: the one barrier. A session enters POST only at a FLUSH tick that samples `ch_idle = 1` without a fault, with the
bus still driven; where the channel keeps its promise on `ch_idle` (R176), every byte it has taken has then left. -/
def Obligations.PostOnlyAfterDrain : Prop :=
  ∀ (left : Nat) (x : Inputs) (s t : State), Inv Config.params s → tick x s = .next t → s.phase ≠ .post → t.phase = .post →
    s.phase = .flush ∧ x.rst = false ∧ x.chFault = false ∧ x.chIdle = true ∧ t.de = true ∧ t.taken = s.taken ∧
    (idleTruthful left x s → left = t.taken.length)

/-! ## Command acceptance, status -/

/-- R166: an IDLE tick without a command changes nothing; with one, the command is executed at this tick; the channel's inputs
are ignored. In IDLE the command port is ready and nothing is on offer. -/
def Obligations.IdleTickRunsTheCommand : Prop :=
  ∀ (x : Inputs) (s : State), x.rst = false → s.phase = .idle →
    (x.cmdValid = false → tick x s = .next s) ∧
    (x.cmdValid = true → tick x s = exec (decodeCommand x.cmd) s) ∧
    (∀ (r i f : Bool) (c : Byte), tick { x with chReady := r, chIdle := i, chFault := f, chFcode := c } s = tick x s) ∧
    (outputs s).cmdReady = true ∧ (outputs s).chValid = false ∧ (Inv Config.params s → s.de = false)

/-- R214: while a session runs no command is accepted, whatever it is, and nothing is recorded; the command still presented
after the tick that returned to IDLE is accepted at the next. -/
def Obligations.CommandsWaitDuringSession : Prop :=
  ∀ (x : Inputs) (s : State), s.phase ≠ .idle →
    (outputs s).cmdReady = false ∧
    (∀ (v : Bool) (w : CmdWord), tick { x with cmdValid := v, cmd := w } s = tick x s) ∧
    (∀ w : CmdWord, exec (decodeCommand w) s = .next s) ∧
    (∀ (w : CmdWord) (t : State) (y : Inputs),
      tick { x with cmdValid := true, cmd := w } s = .next t → t.phase = .idle → y.rst = false →
      tick { y with cmdValid := true, cmd := w } t = exec (decodeCommand w) t)

/-- R213, R96, R97: the host holds a command until a tick accepts it: while a session runs or reset is applied the command has no
effect and stays in its program; in IDLE it is executed and the host goes on. `WAIT` presents nothing while `busy`. R233, R295:
reading `err = 1` gives the caller the `TransportError`, at a reset tick too, and it decides what to do with what is left; in the
reference reading the operation ends; reading `done = 1` and `err = 0` lets it go on. The model's choice (log entry 28): what the
decision may depend on, and that a reset, and a read of `done = err = 0`, are put to the same decision. -/
def Obligations.HostHoldsCommandUntilAccepted : Prop :=
  ∀ (policy : HostPolicy) (rest : Operation) (later : List Operation) (h : HostProgram) (x : Inputs) (s : State),
    (∀ w : CmdWord, h.operations = (.command w :: rest) :: later →
      (s.phase ≠ .idle ∨ x.rst = true → tick (hostSample h x s) s = tick x s) ∧
      (s.phase ≠ .idle → x.rst = false → hostNext policy h x s = h) ∧
      (x.rst = true → hostNext policy h x s
        = ⟨policy (h.events ++ [.reset]) (.command w :: rest) later, h.events ++ [.reset]⟩) ∧
      (x.rst = true → hostNext referencePolicy h x s = { h with events := h.events ++ [.reset] }) ∧
      (s.phase = .idle → x.rst = false → tick (hostSample h x s) s = exec (decodeCommand w) s ∧
        hostNext policy h x s = { h with operations := rest :: later })) ∧
    (h.operations = (.wait :: rest) :: later →
      (s.phase ≠ .idle → (hostSample h x s).cmdValid = false ∧ (x.rst = false → hostNext policy h x s = h)) ∧
      (s.phase = .idle → hostSample h x s = hostSample { h with operations := rest :: later } x s ∧
        hostNext policy h x s = hostNext policy { h with operations := rest :: later } x s)) ∧
    (h.operations = (.readStatus :: rest) :: later →
      (s.err = true → (hostSample h x s).cmdValid = false ∧
        ∀ e : HostEvent, e = .failed ⟨causeCode s.cause, s.info, s.txcnt⟩ →
          hostNext policy h x s = ⟨policy (h.events ++ [e]) rest later, h.events ++ [e]⟩ ∧
          hostNext referencePolicy h x s = ⟨later, h.events ++ [e]⟩) ∧
      (s.err = false → s.done = true → hostSample h x s = hostSample { h with operations := rest :: later } x s ∧
        hostNext policy h x s = hostNext policy { h with operations := rest :: later } x s) ∧
      (s.err = false → s.done = false → s.phase = .idle → (hostSample h x s).cmdValid = false ∧
        hostNext policy h x s = ⟨policy (h.events ++ [.cutOff]) rest later, h.events ++ [.cutOff]⟩ ∧
        hostNext referencePolicy h x s = ⟨later, h.events ++ [.cutOff]⟩))

/-- A step runs the decoded instruction: a command word sampled in IDLE, and a packet the host has been given; where no sample
is queued, the step is a tick with the free inputs (the model's own, log entry 5). R233: a packet that follows another in its
operation is issued where the ports show that one sent, `done = 1` and `err = 0`, and given up after `err = 1` (and, by the
model's choice in log entry 27, where reset has left neither bit). -/
def Obligations.StepRunsTheDecodedInstruction : Prop :=
  (∀ (x : Inputs) (rest : List Inputs) (s : State) (i : Instr), s.phase = .idle → s.pkts = [] → s.inq = x :: rest →
    x.rst = false → x.cmdValid = true → decode (.command x.cmd) = .ok i → step s = exec i { s with inq := rest }) ∧
  (∀ (p : QueuedPacket) (rest : List QueuedPacket) (s : State), s.phase = .idle → s.pkts = p :: rest →
    (p.follows = true → s.done = true ∧ s.err = false) →
    (∀ i : Instr, decode (.packet p.bytes) = .ok i → step s = exec i { s with pkts := rest }) ∧
    (∀ e : DecodeError, decode (.packet p.bytes) = .error e → step s = .refused (.notAPacket e))) ∧
  (∀ (p : QueuedPacket) (rest : List QueuedPacket) (s : State), s.phase = .idle → s.pkts = p :: rest → p.follows = true →
    ¬ (s.done = true ∧ s.err = false) → step s = step { s with pkts := rest }) ∧
  (∀ (x : Inputs) (rest : List Inputs) (s : State), s.phase ≠ .idle ∨ s.pkts = [] → s.inq = x :: rest →
    step s = tick x { s with inq := rest }) ∧
  (∀ s : State, s.phase ≠ .idle ∨ s.pkts = [] → s.inq = [] →
    step s = tick (Config.freeInputs s.draws) { s with draws := s.draws + 1 })

/-- R210: `NOP` changes nothing, and its tick is that of a tick without a command. -/
def Obligations.NopChangesNothing : Prop :=
  (∀ (d : Byte) (s : State), decodeCommand (commandWord 0x0#4 d) = .nop d ∧ exec (.nop d) s = .next s) ∧
  (∀ (x : Inputs) (d : Byte) (s : State), tick { x with cmdValid := true, cmd := commandWord 0x0#4 d } s
    = tick { x with cmdValid := false } s)

/-- R211, with its claim that no other command clears the sticky flags. -/
def Obligations.StClrClearsSixFlags : Prop :=
  (∀ (d : Byte) (s : State),
    decodeCommand (commandWord 0x8#4 d) = .stClr d ∧
    (s.phase = .idle → exec (.stClr d) s = .next { s with
      done := false, err := false, cause := .none, info := 0x00#8, fOvf := false, fIll := false }) ∧
    (s.phase ≠ .idle → exec (.stClr d) s = .next s)) ∧
  (∀ (w : CmdWord) (s t : State), exec (decodeCommand w) s = .next t →
    (s.fOvf = true ∧ t.fOvf = false) ∨ (s.fIll = true ∧ t.fIll = false) → ∃ d, decodeCommand w = .stClr d)

/-- R212 (and R83, R257): each reserved command sets `F_ILL` and changes nothing else. -/
def Obligations.ReservedCommandSetsFIll : Prop :=
  ∀ (d : Byte) (s : State),
    decodeCommand (commandWord 0x9#4 d) = .reserved9 d ∧ decodeCommand (commandWord 0xA#4 d) = .reservedA d ∧
    decodeCommand (commandWord 0xB#4 d) = .reservedB d ∧ decodeCommand (commandWord 0xC#4 d) = .reservedC d ∧
    decodeCommand (commandWord 0xD#4 d) = .reservedD d ∧ decodeCommand (commandWord 0xE#4 d) = .reservedE d ∧
    decodeCommand (commandWord 0xF#4 d) = .reservedF d ∧
    (s.phase = .idle →
      exec (.reserved9 d) s = .next { s with fIll := true } ∧ exec (.reservedA d) s = .next { s with fIll := true } ∧
      exec (.reservedB d) s = .next { s with fIll := true } ∧ exec (.reservedC d) s = .next { s with fIll := true } ∧
      exec (.reservedD d) s = .next { s with fIll := true } ∧ exec (.reservedE d) s = .next { s with fIll := true } ∧
      exec (.reservedF d) s = .next { s with fIll := true }) ∧
    (s.phase ≠ .idle →
      exec (.reserved9 d) s = .next s ∧ exec (.reservedA d) s = .next s ∧ exec (.reservedB d) s = .next s ∧
      exec (.reservedC d) s = .next s ∧ exec (.reservedD d) s = .next s ∧ exec (.reservedE d) s = .next s ∧
      exec (.reservedF d) s = .next s)

/-- R32, R33: `F_OVF` is set by a push accepted while `PB_LEN = 261`, which is dropped whole, and only by it; `F_ILL` only by a reserved code; each is cleared only
by `ST.CLR` and reset. -/
def Obligations.StickyFlagsSetAndCleared : Prop :=
  ∀ (x : Inputs) (s t : State), s.pbLen.toNat ≤ 261 → tick x s = .next t →
    (s.fOvf = false → (t.fOvf = true ↔ x.rst = false ∧ s.phase = .idle ∧ x.cmdValid = true ∧ s.pbLen.toNat = 261 ∧
      (∃ d, decodeCommand x.cmd = .pbPush d ∨ decodeCommand x.cmd = .pkPush d ∨ decodeCommand x.cmd = .pkFin d))) ∧
    (s.fOvf = false → t.fOvf = true → t = { s with fOvf := true }) ∧
    (s.fIll = false → (t.fIll = true ↔ x.rst = false ∧ s.phase = .idle ∧ x.cmdValid = true ∧ 9 ≤ (opField x.cmd).toNat)) ∧
    (s.fOvf = true → (t.fOvf = false ↔ x.rst = true ∨
      (s.phase = .idle ∧ x.cmdValid = true ∧ ∃ d, decodeCommand x.cmd = .stClr d))) ∧
    (s.fIll = true → (t.fIll = false ↔ x.rst = true ∨
      (s.phase = .idle ∧ x.cmdValid = true ∧ ∃ d, decodeCommand x.cmd = .stClr d)))

/-! ## Reset -/

/-- R280, R40: a tick with `rst = 1` gives every register its reset value, whatever the phase and the other inputs, and leaves
the bytes of `PB`; the outputs are those of R40. That `taken`, `inq`, `pkts` and `draws` are kept is the model's choice (log
entry 4). -/
def Obligations.ResetTickAndValues : Prop :=
  (∀ (x : Inputs) (s : State), x.rst = true →
    tick x s = .next { s with
      phase := .idle, de := false, gt := 0, txcnt := 0#9, pbLen := 0#9, sum := 0x00#8, done := false, err := false,
      cause := .none, info := 0x00#8, fOvf := false, fIll := false } ∧
    ∀ t, tick x s = .next t → (outputs t).cmdReady = true ∧ (outputs t).busy = false ∧ (outputs t).de = false ∧
      (outputs t).chValid = false ∧ (outputs t).chData = 0x00#8 ∧ (outputs t).sum = 0x00#8 ∧ (outputs t).chk = 0x00#8) ∧
  (∀ x : Inputs, x.rst = true → tick x State.reset = .next State.reset)

/-! ## Invariants and whole-machine rules -/

/-- The invariants of R38 hold in the reset state. -/
def Obligations.ResetMeetsInvariants : Prop := Inv Config.params State.reset

/-- R38 (a) to (g) (the spec marks them as derived; the `TXCNT ≤ PB_LEN` of (c) while a session runs), the buffer's canonical form
and the writtenness of every valid byte are kept by every step. R38 (c), R24 in IDLE: `TXCNT ≤ PB_LEN` is kept by every step but
one that accepts `PB.CLR`, which empties the buffer and leaves `TXCNT` (R130; log entry 21). -/
def Obligations.StepKeepsInvariants : Prop :=
  (∀ s t : State, Inv Config.params s → step s = .next t → Inv Config.params t) ∧
  (∀ s t : State, Inv Config.params s → s.txcnt.toNat ≤ s.pbLen.toNat → step s = .next t → ¬ t.txcnt.toNat ≤ t.pbLen.toNat →
    s.phase = .idle ∧ (takeInputs s).1.rst = false ∧ (takeInputs s).1.cmdValid = true ∧
    (∃ d, decodeCommand (takeInputs s).1.cmd = .pbClr d) ∧ t.pbLen = 0#9 ∧ t.txcnt = s.txcnt)

/-- R38 (h) (the spec marks it as derived): during a session `PB`, `PB_LEN`, `SUM`, `F_OVF` and `F_ILL` do not change. -/
def Obligations.SessionKeepsBufferAndFlags : Prop :=
  ∀ (x : Inputs) (s t : State), x.rst = false → s.phase ≠ .idle → tick x s = .next t →
    t.pb = s.pb ∧ t.pbLen = s.pbLen ∧ t.sum = s.sum ∧ t.fOvf = s.fOvf ∧ t.fIll = s.fIll

/-- R168: a tick is total: from every state the spec has (`PB_LEN ≤ 261`) there is a next state, and the phase before the tick
chooses which rule gives it. -/
def Obligations.TickIsTotal : Prop :=
  ∀ (x : Inputs) (s : State), s.pbLen.toNat ≤ 261 →
    (∃ t, tick x s = .next t) ∧
    (x.rst = true → tick x s = .next (resetRegisters s)) ∧
    (x.rst = false →
      (s.phase = .idle → tick x s = idleTick x s) ∧
      (s.phase = .pre → tick x s = .next (preTick s)) ∧
      (s.phase = .write → tick x s = writeTick Config.params x s) ∧
      (s.phase = .flush → tick x s = .next (flushTick Config.params x s)) ∧
      (s.phase = .post → tick x s = .next (postTick s)))

/-- R7 (`GT_W`), R23: `GT_W` is the least width that holds the three load values, and it holds every value `GT` takes. -/
def Obligations.GuardTimerFitsItsWidth : Prop :=
  (∀ P : Params, max P.preTicks (max P.postTicks P.flushTmo) < 2 ^ P.gtW ∧
    ∀ w, max P.preTicks (max P.postTicks P.flushTmo) < 2 ^ w → P.gtW ≤ w) ∧
  (∀ (P : Params) (s : State), Inv P s → s.gt < 2 ^ P.gtW)

/-- R8: the tick counts realise at least the guard intervals of 10 ms, with `T_TICK = tTickNum / tTickDen` milliseconds;
`leastTicks` is the recommended choice, the least natural number that does; both counts are at least 1 (R7). -/
def Obligations.GuardIntervalsAreRealised : Prop :=
  (∀ num den n : Nat, 0 < num → (10 * den ≤ n * num ↔ Config.leastTicks 10 num den ≤ n)) ∧
  10 * Config.tTickDen ≤ Config.params.preTicks * Config.tTickNum ∧
  10 * Config.tTickDen ≤ Config.params.postTicks * Config.tTickNum ∧
  0 < Config.tTickNum ∧ 0 < Config.tTickDen ∧ Config.params.wf = true

/-! ## The host side -/

/-- R221, R222: the packet of `encode_packet`, its length and checksum invariants, and the refusal above 255 body bytes. -/
def Obligations.EncodePacketInvariants : Prop :=
  ∀ (t : Byte) (body : List Byte),
    (body.length ≤ 255 → ∃ (p : Packet) (c : Byte), encodePacket t body = .ok p ∧
      p = [t, 0xC3#8, 0xFF#8, 0xF5#8, BitVec.ofNat 8 body.length] ++ body ++ [c] ∧
      c.toNat = (256 - (t.toNat + 0xC3 + 0xFF + 0xF5 + body.length + docSum body) % 256) % 256 ∧
      p.length = 6 + body.length ∧ (p.getD 4 0x00#8).toNat = body.length ∧ docSum p % 256 = 0) ∧
    (255 < body.length → encodePacket t body = .error .bodyTooLarge)

/-- R225 to R229: the packets of `encode_message`: their number, their sizes (R226, which the spec marks as derived), the
terminator last, the message rebuilt from the fragments' text bytes, no fragment for the empty message, and the refusal above
180 bytes, before any command is issued. R233: the host's program for the message transmits those packets in that order, one
session each; a message given to the host's queue is those packets as one operation. -/
def Obligations.EncodeMessageIsComplete : Prop :=
  ∀ (m : List Byte) (s : State),
    (m.length ≤ 180 → ∃ frags : List Packet,
      encodeMessage m = .ok (frags ++ [[0x54#8, 0xC3#8, 0xFF#8, 0xF5#8, 0x00#8, 0xF5#8]]) ∧
      frags.length = (m.length + 11) / 12 ∧ (frags.map (fun p => (p.drop 8).dropLast)).flatten = m ∧
      (∀ p ∈ frags, 10 ≤ p.length ∧ p.length ≤ 21) ∧
      transmitMessageOps m = .ok ((frags ++ [[0x54#8, 0xC3#8, 0xFF#8, 0xF5#8, 0x00#8, 0xF5#8]]).map (fun p =>
        (loadWords p).map .command ++ [.command 0x700#12, .wait, .readStatus])).flatten ∧
      ∃ t, giveMessage m s = .next t ∧ t = { s with pkts := t.pkts } ∧ ∃ q, t.pkts = s.pkts ++ q ∧
        q.map (·.bytes) = frags ++ [[0x54#8, 0xC3#8, 0xFF#8, 0xF5#8, 0x00#8, 0xF5#8]] ∧
        q.map (·.follows) = false :: List.replicate frags.length true) ∧
    (180 < m.length → encodeMessage m = .error .payloadTooLarge ∧ sendMessageOps m = .error .payloadTooLarge ∧
      transmitMessageOps m = .error .payloadTooLarge ∧ giveMessage m s = .refused .payloadTooLarge)

/-- R91, R92, R223: packet number i of a message (0-based) is the message fragment form with index i + 1, and its text is bytes
`12i` up to but not including `min(12(i+1), n)` of the message. -/
def Obligations.MessageFragmentsAreTheFragmentForm : Prop :=
  ∀ (m : List Byte) (i : Nat), m.length ≤ 180 → i < (m.length + 11) / 12 →
    decode (.packet (fragmentPacket m i)) = .ok (.pktMFrag (BitVec.ofNat 4 (i + 1)) (fragmentText m i)) ∧
    fragmentText m i = (m.take (min (12 * (i + 1)) m.length)).drop (12 * i) ∧
    1 ≤ (fragmentText m i).length ∧ (fragmentText m i).length ≤ 12

/-- R231, R232: the diagnostic sequence, for whatever banner and first index, has 20 steps in order, each with the message packets
of its text and the host's 1-second delay. -/
def Obligations.DiagnosticSequenceHasTwentySteps : Prop :=
  ∀ (banner : List Byte) (first : Nat), (∀ text ∈ diagnosticTexts banner first, text.length ≤ 180) →
    ∃ steps, diagnosticSteps (diagnosticTexts banner first) = .ok steps ∧ steps.length = 20 ∧
      ∀ (k : Nat) (st : DiagStep), steps[k]? = some st →
        st.delayMs = 1000 ∧ ∃ text, (diagnosticTexts banner first)[k]? = some text ∧ encodeMessage text = .ok st.packets
end

