-- ==== Sys2Proof/Laws/Bytes.lean ====
section
/-! SUPPORT. The arithmetic of the checksum: the byte sum of a sequence, and the packet's bytes. -/

namespace Sys2Proof

theorem neg8_eq_neg (a : Byte) : neg8 a = -a := by
  apply BitVec.eq_of_toNat_eq
  simp [neg8, BitVec.toNat_neg]

@[simp] theorem add_neg8 (a : Byte) : a + neg8 a = 0#8 := by
  rw [neg8_eq_neg]; exact BitVec.add_right_neg a

@[simp] theorem docSum_nil : docSum [] = 0 := rfl

@[simp] theorem docSum_cons (b : Byte) (bs : List Byte) : docSum (b :: bs) = b.toNat + docSum bs := by
  simp [docSum]

@[simp] theorem docSum_append (bs cs : List Byte) : docSum (bs ++ cs) = docSum bs + docSum cs := by
  simp [docSum]

/-- The order of the bytes does not matter. -/
theorem docSum_perm {bs cs : List Byte} (h : bs.Perm cs) : docSum bs = docSum cs :=
  (h.map BitVec.toNat).sum_nat

/-- Adding the bytes one by one modulo 256 gives the document's sum modulo 256. -/
theorem foldl_add_eq_docSum (bs : List Byte) (a : Byte) :
    bs.foldl (fun acc b => acc + b) a = a + BitVec.ofNat 8 (docSum bs) := by
  induction bs generalizing a with
  | nil => simp
  | cons b bs ih =>
    rw [List.foldl_cons, ih, docSum_cons]
    apply BitVec.eq_of_toNat_eq
    simp [BitVec.toNat_add]
    omega

/-- The document's checksum is the inversion of the accumulated sum. -/
theorem docChecksum_eq_neg8 (bs : List Byte) : docChecksum bs = neg8 (BitVec.ofNat 8 (docSum bs)) := by
  apply BitVec.eq_of_toNat_eq
  simp [docChecksum, neg8]

@[simp] theorem packetHeader_length (t : Byte) (body : List Byte) : (packetHeader t body).length = 5 := rfl

@[simp] theorem packetCovered_length (t : Byte) (body : List Byte) : (packetCovered t body).length = 5 + body.length := by
  simp [packetCovered]

@[simp] theorem packetBytes_length (t : Byte) (body : List Byte) : (packetBytes t body).length = 6 + body.length := by
  simp [packetBytes]; omega

/-! ## The fields of a command word -/

@[simp] theorem opField_commandWord (op : BitVec 4) (d : Byte) : opField (commandWord op d) = op := by
  simp only [opField, commandWord]
  exact BitVec.extractLsb'_append_eq_left

@[simp] theorem dField_commandWord (op : BitVec 4) (d : Byte) : dField (commandWord op d) = d := by
  simp only [dField, commandWord]
  exact BitVec.extractLsb'_append_eq_right

/-- Every word is its two fields. -/
theorem commandWord_fields (w : CmdWord) : commandWord (opField w) (dField w) = w := by
  simp only [commandWord, opField, dField]
  exact BitVec.extractLsb'_append_extractLsb'_eq_extractLsb' (by rfl) |>.trans (by simp)

end Sys2Proof
end

