-- ==== Sys2Proof/Laws/Config.lean ====
section
/-! SUPPORT. What holds of the configuration whatever the OPEN parameters are. -/

namespace Sys2Proof

/-- A positive guard time takes at least one tick. -/
theorem Config.one_le_leastTicks {g num den : Nat} (hg : 0 < g) (hn : 0 < num) (hd : 0 < den) :
    1 ≤ Config.leastTicks g num den := by
  have h : 0 < g * den := Nat.mul_pos hg hd
  exact (Nat.one_le_div_iff hn).2 (by omega)

/-- `PRE_TICKS ≥ 1` (R7). -/
theorem Config.one_le_preTicks : 1 ≤ Config.params.preTicks :=
  Nat.le_trans (Config.one_le_leastTicks (by decide) (Nat.succ_pos _) (Nat.succ_pos _)) (Nat.le_add_right _ _)

/-- `POST_TICKS ≥ 1` (R7). -/
theorem Config.one_le_postTicks : 1 ≤ Config.params.postTicks :=
  Nat.le_trans (Config.one_le_leastTicks (by decide) (Nat.succ_pos _) (Nat.succ_pos _)) (Nat.le_add_right _ _)

end Sys2Proof
end

