-- ==== Sys2Proof/Laws/Memory.lean ====
section
/-! SUPPORT. The laws of the packet buffer: a read after a write, the canonical form, and runs of writes. -/

namespace Sys2Proof.Machine

@[simp] theorem Memory.read_nil (a : Nat) : Memory.read [] a = none := rfl

/-- A read after a write to the same index gives the byte written. -/
@[simp] theorem Memory.read_write_same (m : Memory) (a : Nat) (v : Byte) : (m.write a v).read a = some v := by
  induction m with
  | nil => simp [Memory.write, Memory.read]
  | cons c rest ih =>
    obtain ⟨b, w⟩ := c
    simp only [Memory.write]
    split
    · simp [Memory.read]
    · split
      · simp [Memory.read]
      · rename_i h; simp [Memory.read, h, ih]

/-- A write leaves every other index alone. -/
theorem Memory.read_write_other (m : Memory) {a b : Nat} (v : Byte) (h : b ≠ a) : (m.write a v).read b = m.read b := by
  induction m with
  | nil => simp [Memory.write, Memory.read, h]
  | cons c rest ih =>
    obtain ⟨i, w⟩ := c
    simp only [Memory.write]
    split
    · simp [Memory.read, h]
    · split
      · rename_i hai; subst hai; simp [Memory.read, h]
      · simp only [Memory.read, ih]

theorem Memory.read_write (m : Memory) (a b : Nat) (v : Byte) :
    (m.write a v).read b = if b = a then some v else m.read b := by
  split
  · rename_i h; subst h; exact m.read_write_same _ v
  · rename_i h; exact m.read_write_other v h

/-- A write inside the buffer keeps the canonical form. -/
theorem Memory.wfFrom_write (m : Memory) {lo a : Nat} (v : Byte) (hlo : lo ≤ a) (ha : a < pbCap)
    (h : Memory.wfFrom lo m = true) : Memory.wfFrom lo (m.write a v) = true := by
  induction m generalizing lo with
  | nil => simp [Memory.write, Memory.wfFrom, hlo, ha]
  | cons c rest ih =>
    obtain ⟨i, w⟩ := c
    simp only [Memory.wfFrom, Bool.and_eq_true, decide_eq_true_eq] at h
    obtain ⟨⟨hi, hic⟩, hr⟩ := h
    simp only [Memory.write]
    split
    · rename_i hai
      simp [Memory.wfFrom, hlo, ha, hic, hr]; omega
    · split
      · rename_i hai; subst hai; simp [Memory.wfFrom, hi, ha, hr]
      · simp only [Memory.wfFrom, Bool.and_eq_true, decide_eq_true_eq]
        exact ⟨⟨hi, hic⟩, ih (by omega) hr⟩

theorem Memory.wf_write (m : Memory) {a : Nat} (v : Byte) (ha : a < pbCap) (h : m.wf = true) : (m.write a v).wf = true :=
  m.wfFrom_write v (Nat.zero_le a) ha h

theorem Memory.wf_nil : Memory.wf [] = true := rfl

/-- Outside the indices written, a run of writes changes nothing. -/
theorem Memory.read_writeAll_other (bs : List Byte) (m : Memory) {a i : Nat} (h : i < a ∨ a + bs.length ≤ i) :
    (m.writeAll a bs).read i = m.read i := by
  induction bs generalizing m a with
  | nil => rfl
  | cons b bs ih =>
    simp only [List.length_cons] at h
    rw [Memory.writeAll, ih _ (by omega), Memory.read_write_other _ _ (by omega)]

/-- Inside, byte `j` of the run stands at index `a + j`. -/
theorem Memory.read_writeAll_inside (bs : List Byte) (m : Memory) {a j : Nat} (h : j < bs.length) :
    (m.writeAll a bs).read (a + j) = some bs[j] := by
  induction bs generalizing m a j with
  | nil => simp at h
  | cons b bs ih =>
    rw [Memory.writeAll]
    cases j with
    | zero => simpa using Memory.read_writeAll_other bs (m.write a b) (a := a + 1) (i := a) (by omega)
    | succ j =>
      have := ih (m.write a b) (a := a + 1) (j := j) (by simpa using h)
      simpa [Nat.add_assoc, Nat.add_comm, Nat.add_left_comm] using this

theorem Memory.writeAll_append (bs cs : List Byte) (m : Memory) (a : Nat) :
    m.writeAll a (bs ++ cs) = (m.writeAll a bs).writeAll (a + bs.length) cs := by
  induction bs generalizing m a with
  | nil => rfl
  | cons b bs ih => simp [Memory.writeAll, ih, Nat.add_assoc, Nat.add_comm]

theorem Memory.wf_writeAll (bs : List Byte) (m : Memory) {a : Nat} (ha : a + bs.length ≤ pbCap) (h : m.wf = true) :
    (m.writeAll a bs).wf = true := by
  induction bs generalizing m a with
  | nil => exact h
  | cons b bs ih =>
    simp only [List.length_cons] at ha
    exact ih _ (by omega) (m.wf_write b (by omega) h)

/-! ## Reading a run of bytes -/

@[simp] theorem Memory.bytesFrom_length (m : Memory) (i n : Nat) : (m.bytesFrom i n).length = n := by
  induction n generalizing i with
  | zero => rfl
  | succ n ih => simp [Memory.bytesFrom, ih]

theorem Memory.bytesFrom_getElem (m : Memory) (i n j : Nat) (h : j < (m.bytesFrom i n).length) :
    (m.bytesFrom i n)[j] = m.byteAt (i + j) := by
  induction n generalizing i j with
  | zero => simp at h
  | succ n ih =>
    cases j with
    | zero => simp [Memory.bytesFrom]
    | succ j => simp [Memory.bytesFrom, ih, Nat.add_assoc, Nat.add_comm 1 j]

/-- Two runs of bytes are equal if the bytes are, one by one. -/
theorem Memory.bytesFrom_congr {m m' : Memory} {i n : Nat} (h : ∀ j, j < n → m.byteAt (i + j) = m'.byteAt (i + j)) :
    m.bytesFrom i n = m'.bytesFrom i n := by
  refine List.ext_getElem (by simp) fun j h1 h2 => ?_
  simp only [Memory.bytesFrom_getElem]
  exact h j (by simpa using h1)

/-- One byte more. -/
theorem Memory.take_bytesFrom_succ (m : Memory) {i n k : Nat} (h : k < n) :
    (m.bytesFrom i n).take (k + 1) = (m.bytesFrom i n).take k ++ [m.byteAt (i + k)] := by
  rw [List.take_succ_eq_append_getElem (by simpa using h), Memory.bytesFrom_getElem]

/-- Reading back a run of writes from its start gives the run. -/
theorem Memory.bytesFrom_writeAll (bs : List Byte) (m : Memory) (a : Nat) : (m.writeAll a bs).bytesFrom a bs.length = bs := by
  refine List.ext_getElem (by simp) fun j h1 h2 => ?_
  rw [Memory.bytesFrom_getElem, Memory.byteAt, Memory.read_writeAll_inside bs m h2]
  rfl

@[simp] theorem validBytes_length (s : State) : (validBytes s).length = s.pbLen.toNat := by
  simp [validBytes]

end Sys2Proof.Machine
end

