-- ==== Sys2Proof/Laws/State.lean ====
section
/-! SUPPORT. What each named update of the state leaves in each field: one lemma per field and update, so that no later proof
unfolds a record update. -/

namespace Sys2Proof.Machine

variable (s : State)

/-! ## setOverflow -/

@[simp] theorem setOverflow_phase : (setOverflow s).phase = s.phase := rfl
@[simp] theorem setOverflow_de : (setOverflow s).de = s.de := rfl
@[simp] theorem setOverflow_gt : (setOverflow s).gt = s.gt := rfl
@[simp] theorem setOverflow_txcnt : (setOverflow s).txcnt = s.txcnt := rfl
@[simp] theorem setOverflow_pb : (setOverflow s).pb = s.pb := rfl
@[simp] theorem setOverflow_pbLen : (setOverflow s).pbLen = s.pbLen := rfl
@[simp] theorem setOverflow_sum : (setOverflow s).sum = s.sum := rfl
@[simp] theorem setOverflow_done : (setOverflow s).done = s.done := rfl
@[simp] theorem setOverflow_err : (setOverflow s).err = s.err := rfl
@[simp] theorem setOverflow_cause : (setOverflow s).cause = s.cause := rfl
@[simp] theorem setOverflow_info : (setOverflow s).info = s.info := rfl
@[simp] theorem setOverflow_fOvf : (setOverflow s).fOvf = true := rfl
@[simp] theorem setOverflow_fIll : (setOverflow s).fIll = s.fIll := rfl
@[simp] theorem setOverflow_taken : (setOverflow s).taken = s.taken := rfl
@[simp] theorem setOverflow_inq : (setOverflow s).inq = s.inq := rfl
@[simp] theorem setOverflow_pkts : (setOverflow s).pkts = s.pkts := rfl
@[simp] theorem setOverflow_draws : (setOverflow s).draws = s.draws := rfl

/-! ## setIllegal -/

@[simp] theorem setIllegal_phase : (setIllegal s).phase = s.phase := rfl
@[simp] theorem setIllegal_de : (setIllegal s).de = s.de := rfl
@[simp] theorem setIllegal_gt : (setIllegal s).gt = s.gt := rfl
@[simp] theorem setIllegal_txcnt : (setIllegal s).txcnt = s.txcnt := rfl
@[simp] theorem setIllegal_pb : (setIllegal s).pb = s.pb := rfl
@[simp] theorem setIllegal_pbLen : (setIllegal s).pbLen = s.pbLen := rfl
@[simp] theorem setIllegal_sum : (setIllegal s).sum = s.sum := rfl
@[simp] theorem setIllegal_done : (setIllegal s).done = s.done := rfl
@[simp] theorem setIllegal_err : (setIllegal s).err = s.err := rfl
@[simp] theorem setIllegal_cause : (setIllegal s).cause = s.cause := rfl
@[simp] theorem setIllegal_info : (setIllegal s).info = s.info := rfl
@[simp] theorem setIllegal_fOvf : (setIllegal s).fOvf = s.fOvf := rfl
@[simp] theorem setIllegal_fIll : (setIllegal s).fIll = true := rfl
@[simp] theorem setIllegal_taken : (setIllegal s).taken = s.taken := rfl
@[simp] theorem setIllegal_inq : (setIllegal s).inq = s.inq := rfl
@[simp] theorem setIllegal_pkts : (setIllegal s).pkts = s.pkts := rfl
@[simp] theorem setIllegal_draws : (setIllegal s).draws = s.draws := rfl

/-! ## clearResult -/

@[simp] theorem clearResult_phase : (clearResult s).phase = s.phase := rfl
@[simp] theorem clearResult_de : (clearResult s).de = s.de := rfl
@[simp] theorem clearResult_gt : (clearResult s).gt = s.gt := rfl
@[simp] theorem clearResult_txcnt : (clearResult s).txcnt = s.txcnt := rfl
@[simp] theorem clearResult_pb : (clearResult s).pb = s.pb := rfl
@[simp] theorem clearResult_pbLen : (clearResult s).pbLen = s.pbLen := rfl
@[simp] theorem clearResult_sum : (clearResult s).sum = s.sum := rfl
@[simp] theorem clearResult_done : (clearResult s).done = false := rfl
@[simp] theorem clearResult_err : (clearResult s).err = false := rfl
@[simp] theorem clearResult_cause : (clearResult s).cause = .none := rfl
@[simp] theorem clearResult_info : (clearResult s).info = 0#8 := rfl
@[simp] theorem clearResult_fOvf : (clearResult s).fOvf = s.fOvf := rfl
@[simp] theorem clearResult_fIll : (clearResult s).fIll = s.fIll := rfl
@[simp] theorem clearResult_taken : (clearResult s).taken = s.taken := rfl
@[simp] theorem clearResult_inq : (clearResult s).inq = s.inq := rfl
@[simp] theorem clearResult_pkts : (clearResult s).pkts = s.pkts := rfl
@[simp] theorem clearResult_draws : (clearResult s).draws = s.draws := rfl

/-! ## clearSticky -/

@[simp] theorem clearSticky_phase : (clearSticky s).phase = s.phase := rfl
@[simp] theorem clearSticky_de : (clearSticky s).de = s.de := rfl
@[simp] theorem clearSticky_gt : (clearSticky s).gt = s.gt := rfl
@[simp] theorem clearSticky_txcnt : (clearSticky s).txcnt = s.txcnt := rfl
@[simp] theorem clearSticky_pb : (clearSticky s).pb = s.pb := rfl
@[simp] theorem clearSticky_pbLen : (clearSticky s).pbLen = s.pbLen := rfl
@[simp] theorem clearSticky_sum : (clearSticky s).sum = s.sum := rfl
@[simp] theorem clearSticky_done : (clearSticky s).done = s.done := rfl
@[simp] theorem clearSticky_err : (clearSticky s).err = s.err := rfl
@[simp] theorem clearSticky_cause : (clearSticky s).cause = s.cause := rfl
@[simp] theorem clearSticky_info : (clearSticky s).info = s.info := rfl
@[simp] theorem clearSticky_fOvf : (clearSticky s).fOvf = false := rfl
@[simp] theorem clearSticky_fIll : (clearSticky s).fIll = false := rfl
@[simp] theorem clearSticky_taken : (clearSticky s).taken = s.taken := rfl
@[simp] theorem clearSticky_inq : (clearSticky s).inq = s.inq := rfl
@[simp] theorem clearSticky_pkts : (clearSticky s).pkts = s.pkts := rfl
@[simp] theorem clearSticky_draws : (clearSticky s).draws = s.draws := rfl

/-! ## setDone -/

@[simp] theorem setDone_phase : (setDone s).phase = s.phase := rfl
@[simp] theorem setDone_de : (setDone s).de = s.de := rfl
@[simp] theorem setDone_gt : (setDone s).gt = s.gt := rfl
@[simp] theorem setDone_txcnt : (setDone s).txcnt = s.txcnt := rfl
@[simp] theorem setDone_pb : (setDone s).pb = s.pb := rfl
@[simp] theorem setDone_pbLen : (setDone s).pbLen = s.pbLen := rfl
@[simp] theorem setDone_sum : (setDone s).sum = s.sum := rfl
@[simp] theorem setDone_done : (setDone s).done = true := rfl
@[simp] theorem setDone_err : (setDone s).err = s.err := rfl
@[simp] theorem setDone_cause : (setDone s).cause = s.cause := rfl
@[simp] theorem setDone_info : (setDone s).info = s.info := rfl
@[simp] theorem setDone_fOvf : (setDone s).fOvf = s.fOvf := rfl
@[simp] theorem setDone_fIll : (setDone s).fIll = s.fIll := rfl
@[simp] theorem setDone_taken : (setDone s).taken = s.taken := rfl
@[simp] theorem setDone_inq : (setDone s).inq = s.inq := rfl
@[simp] theorem setDone_pkts : (setDone s).pkts = s.pkts := rfl
@[simp] theorem setDone_draws : (setDone s).draws = s.draws := rfl

/-! ## recordFault -/

@[simp] theorem recordFault_phase (c : Cause) (i : Byte) : (recordFault c i s).phase = s.phase := rfl
@[simp] theorem recordFault_de (c : Cause) (i : Byte) : (recordFault c i s).de = s.de := rfl
@[simp] theorem recordFault_gt (c : Cause) (i : Byte) : (recordFault c i s).gt = s.gt := rfl
@[simp] theorem recordFault_txcnt (c : Cause) (i : Byte) : (recordFault c i s).txcnt = s.txcnt := rfl
@[simp] theorem recordFault_pb (c : Cause) (i : Byte) : (recordFault c i s).pb = s.pb := rfl
@[simp] theorem recordFault_pbLen (c : Cause) (i : Byte) : (recordFault c i s).pbLen = s.pbLen := rfl
@[simp] theorem recordFault_sum (c : Cause) (i : Byte) : (recordFault c i s).sum = s.sum := rfl
@[simp] theorem recordFault_done (c : Cause) (i : Byte) : (recordFault c i s).done = true := rfl
@[simp] theorem recordFault_err (c : Cause) (i : Byte) : (recordFault c i s).err = true := rfl
@[simp] theorem recordFault_cause (c : Cause) (i : Byte) : (recordFault c i s).cause = c := rfl
@[simp] theorem recordFault_info (c : Cause) (i : Byte) : (recordFault c i s).info = i := rfl
@[simp] theorem recordFault_fOvf (c : Cause) (i : Byte) : (recordFault c i s).fOvf = s.fOvf := rfl
@[simp] theorem recordFault_fIll (c : Cause) (i : Byte) : (recordFault c i s).fIll = s.fIll := rfl
@[simp] theorem recordFault_taken (c : Cause) (i : Byte) : (recordFault c i s).taken = s.taken := rfl
@[simp] theorem recordFault_inq (c : Cause) (i : Byte) : (recordFault c i s).inq = s.inq := rfl
@[simp] theorem recordFault_pkts (c : Cause) (i : Byte) : (recordFault c i s).pkts = s.pkts := rfl
@[simp] theorem recordFault_draws (c : Cause) (i : Byte) : (recordFault c i s).draws = s.draws := rfl

/-! ## clearSum -/

@[simp] theorem clearSum_phase : (clearSum s).phase = s.phase := rfl
@[simp] theorem clearSum_de : (clearSum s).de = s.de := rfl
@[simp] theorem clearSum_gt : (clearSum s).gt = s.gt := rfl
@[simp] theorem clearSum_txcnt : (clearSum s).txcnt = s.txcnt := rfl
@[simp] theorem clearSum_pb : (clearSum s).pb = s.pb := rfl
@[simp] theorem clearSum_pbLen : (clearSum s).pbLen = s.pbLen := rfl
@[simp] theorem clearSum_sum : (clearSum s).sum = 0#8 := rfl
@[simp] theorem clearSum_done : (clearSum s).done = s.done := rfl
@[simp] theorem clearSum_err : (clearSum s).err = s.err := rfl
@[simp] theorem clearSum_cause : (clearSum s).cause = s.cause := rfl
@[simp] theorem clearSum_info : (clearSum s).info = s.info := rfl
@[simp] theorem clearSum_fOvf : (clearSum s).fOvf = s.fOvf := rfl
@[simp] theorem clearSum_fIll : (clearSum s).fIll = s.fIll := rfl
@[simp] theorem clearSum_taken : (clearSum s).taken = s.taken := rfl
@[simp] theorem clearSum_inq : (clearSum s).inq = s.inq := rfl
@[simp] theorem clearSum_pkts : (clearSum s).pkts = s.pkts := rfl
@[simp] theorem clearSum_draws : (clearSum s).draws = s.draws := rfl

/-! ## addSum -/

@[simp] theorem addSum_phase (d : Byte) : (addSum d s).phase = s.phase := rfl
@[simp] theorem addSum_de (d : Byte) : (addSum d s).de = s.de := rfl
@[simp] theorem addSum_gt (d : Byte) : (addSum d s).gt = s.gt := rfl
@[simp] theorem addSum_txcnt (d : Byte) : (addSum d s).txcnt = s.txcnt := rfl
@[simp] theorem addSum_pb (d : Byte) : (addSum d s).pb = s.pb := rfl
@[simp] theorem addSum_pbLen (d : Byte) : (addSum d s).pbLen = s.pbLen := rfl
@[simp] theorem addSum_sum (d : Byte) : (addSum d s).sum = s.sum + d := rfl
@[simp] theorem addSum_done (d : Byte) : (addSum d s).done = s.done := rfl
@[simp] theorem addSum_err (d : Byte) : (addSum d s).err = s.err := rfl
@[simp] theorem addSum_cause (d : Byte) : (addSum d s).cause = s.cause := rfl
@[simp] theorem addSum_info (d : Byte) : (addSum d s).info = s.info := rfl
@[simp] theorem addSum_fOvf (d : Byte) : (addSum d s).fOvf = s.fOvf := rfl
@[simp] theorem addSum_fIll (d : Byte) : (addSum d s).fIll = s.fIll := rfl
@[simp] theorem addSum_taken (d : Byte) : (addSum d s).taken = s.taken := rfl
@[simp] theorem addSum_inq (d : Byte) : (addSum d s).inq = s.inq := rfl
@[simp] theorem addSum_pkts (d : Byte) : (addSum d s).pkts = s.pkts := rfl
@[simp] theorem addSum_draws (d : Byte) : (addSum d s).draws = s.draws := rfl

/-! ## clearBuffer -/

@[simp] theorem clearBuffer_phase : (clearBuffer s).phase = s.phase := rfl
@[simp] theorem clearBuffer_de : (clearBuffer s).de = s.de := rfl
@[simp] theorem clearBuffer_gt : (clearBuffer s).gt = s.gt := rfl
@[simp] theorem clearBuffer_txcnt : (clearBuffer s).txcnt = s.txcnt := rfl
@[simp] theorem clearBuffer_pb : (clearBuffer s).pb = s.pb := rfl
@[simp] theorem clearBuffer_pbLen : (clearBuffer s).pbLen = 0#9 := rfl
@[simp] theorem clearBuffer_sum : (clearBuffer s).sum = s.sum := rfl
@[simp] theorem clearBuffer_done : (clearBuffer s).done = s.done := rfl
@[simp] theorem clearBuffer_err : (clearBuffer s).err = s.err := rfl
@[simp] theorem clearBuffer_cause : (clearBuffer s).cause = s.cause := rfl
@[simp] theorem clearBuffer_info : (clearBuffer s).info = s.info := rfl
@[simp] theorem clearBuffer_fOvf : (clearBuffer s).fOvf = s.fOvf := rfl
@[simp] theorem clearBuffer_fIll : (clearBuffer s).fIll = s.fIll := rfl
@[simp] theorem clearBuffer_taken : (clearBuffer s).taken = s.taken := rfl
@[simp] theorem clearBuffer_inq : (clearBuffer s).inq = s.inq := rfl
@[simp] theorem clearBuffer_pkts : (clearBuffer s).pkts = s.pkts := rfl
@[simp] theorem clearBuffer_draws : (clearBuffer s).draws = s.draws := rfl

/-! ## appendByte -/

@[simp] theorem appendByte_phase (d : Byte) : (appendByte d s).phase = s.phase := rfl
@[simp] theorem appendByte_de (d : Byte) : (appendByte d s).de = s.de := rfl
@[simp] theorem appendByte_gt (d : Byte) : (appendByte d s).gt = s.gt := rfl
@[simp] theorem appendByte_txcnt (d : Byte) : (appendByte d s).txcnt = s.txcnt := rfl
@[simp] theorem appendByte_pb (d : Byte) : (appendByte d s).pb = s.pb.write (storeIndex s) d := rfl
@[simp] theorem appendByte_pbLen (d : Byte) : (appendByte d s).pbLen = s.pbLen + 1#9 := rfl
@[simp] theorem appendByte_sum (d : Byte) : (appendByte d s).sum = s.sum := rfl
@[simp] theorem appendByte_done (d : Byte) : (appendByte d s).done = s.done := rfl
@[simp] theorem appendByte_err (d : Byte) : (appendByte d s).err = s.err := rfl
@[simp] theorem appendByte_cause (d : Byte) : (appendByte d s).cause = s.cause := rfl
@[simp] theorem appendByte_info (d : Byte) : (appendByte d s).info = s.info := rfl
@[simp] theorem appendByte_fOvf (d : Byte) : (appendByte d s).fOvf = s.fOvf := rfl
@[simp] theorem appendByte_fIll (d : Byte) : (appendByte d s).fIll = s.fIll := rfl
@[simp] theorem appendByte_taken (d : Byte) : (appendByte d s).taken = s.taken := rfl
@[simp] theorem appendByte_inq (d : Byte) : (appendByte d s).inq = s.inq := rfl
@[simp] theorem appendByte_pkts (d : Byte) : (appendByte d s).pkts = s.pkts := rfl
@[simp] theorem appendByte_draws (d : Byte) : (appendByte d s).draws = s.draws := rfl

/-! ## startSession -/

@[simp] theorem startSession_phase (P : Params) : (startSession P s).phase = .pre := rfl
@[simp] theorem startSession_de (P : Params) : (startSession P s).de = true := rfl
@[simp] theorem startSession_gt (P : Params) : (startSession P s).gt = P.preTicks := rfl
@[simp] theorem startSession_txcnt (P : Params) : (startSession P s).txcnt = 0#9 := rfl
@[simp] theorem startSession_pb (P : Params) : (startSession P s).pb = s.pb := rfl
@[simp] theorem startSession_pbLen (P : Params) : (startSession P s).pbLen = s.pbLen := rfl
@[simp] theorem startSession_sum (P : Params) : (startSession P s).sum = s.sum := rfl
@[simp] theorem startSession_done (P : Params) : (startSession P s).done = false := rfl
@[simp] theorem startSession_err (P : Params) : (startSession P s).err = false := rfl
@[simp] theorem startSession_cause (P : Params) : (startSession P s).cause = .none := rfl
@[simp] theorem startSession_info (P : Params) : (startSession P s).info = 0#8 := rfl
@[simp] theorem startSession_fOvf (P : Params) : (startSession P s).fOvf = s.fOvf := rfl
@[simp] theorem startSession_fIll (P : Params) : (startSession P s).fIll = s.fIll := rfl
@[simp] theorem startSession_taken (P : Params) : (startSession P s).taken = s.taken := rfl
@[simp] theorem startSession_inq (P : Params) : (startSession P s).inq = s.inq := rfl
@[simp] theorem startSession_pkts (P : Params) : (startSession P s).pkts = s.pkts := rfl
@[simp] theorem startSession_draws (P : Params) : (startSession P s).draws = s.draws := rfl

/-! ## raiseFault -/

@[simp] theorem raiseFault_phase (c : Cause) (i : Byte) : (raiseFault c i s).phase = .idle := rfl
@[simp] theorem raiseFault_de (c : Cause) (i : Byte) : (raiseFault c i s).de = false := rfl
@[simp] theorem raiseFault_gt (c : Cause) (i : Byte) : (raiseFault c i s).gt = 0 := rfl
@[simp] theorem raiseFault_txcnt (c : Cause) (i : Byte) : (raiseFault c i s).txcnt = s.txcnt := rfl
@[simp] theorem raiseFault_pb (c : Cause) (i : Byte) : (raiseFault c i s).pb = s.pb := rfl
@[simp] theorem raiseFault_pbLen (c : Cause) (i : Byte) : (raiseFault c i s).pbLen = s.pbLen := rfl
@[simp] theorem raiseFault_sum (c : Cause) (i : Byte) : (raiseFault c i s).sum = s.sum := rfl
@[simp] theorem raiseFault_done (c : Cause) (i : Byte) : (raiseFault c i s).done = true := rfl
@[simp] theorem raiseFault_err (c : Cause) (i : Byte) : (raiseFault c i s).err = true := rfl
@[simp] theorem raiseFault_cause (c : Cause) (i : Byte) : (raiseFault c i s).cause = c := rfl
@[simp] theorem raiseFault_info (c : Cause) (i : Byte) : (raiseFault c i s).info = i := rfl
@[simp] theorem raiseFault_fOvf (c : Cause) (i : Byte) : (raiseFault c i s).fOvf = s.fOvf := rfl
@[simp] theorem raiseFault_fIll (c : Cause) (i : Byte) : (raiseFault c i s).fIll = s.fIll := rfl
@[simp] theorem raiseFault_taken (c : Cause) (i : Byte) : (raiseFault c i s).taken = s.taken := rfl
@[simp] theorem raiseFault_inq (c : Cause) (i : Byte) : (raiseFault c i s).inq = s.inq := rfl
@[simp] theorem raiseFault_pkts (c : Cause) (i : Byte) : (raiseFault c i s).pkts = s.pkts := rfl
@[simp] theorem raiseFault_draws (c : Cause) (i : Byte) : (raiseFault c i s).draws = s.draws := rfl

/-! ## dismissStatus -/

@[simp] theorem dismissStatus_phase : (dismissStatus s).phase = s.phase := rfl
@[simp] theorem dismissStatus_de : (dismissStatus s).de = s.de := rfl
@[simp] theorem dismissStatus_gt : (dismissStatus s).gt = s.gt := rfl
@[simp] theorem dismissStatus_txcnt : (dismissStatus s).txcnt = s.txcnt := rfl
@[simp] theorem dismissStatus_pb : (dismissStatus s).pb = s.pb := rfl
@[simp] theorem dismissStatus_pbLen : (dismissStatus s).pbLen = s.pbLen := rfl
@[simp] theorem dismissStatus_sum : (dismissStatus s).sum = s.sum := rfl
@[simp] theorem dismissStatus_done : (dismissStatus s).done = false := rfl
@[simp] theorem dismissStatus_err : (dismissStatus s).err = false := rfl
@[simp] theorem dismissStatus_cause : (dismissStatus s).cause = .none := rfl
@[simp] theorem dismissStatus_info : (dismissStatus s).info = 0#8 := rfl
@[simp] theorem dismissStatus_fOvf : (dismissStatus s).fOvf = false := rfl
@[simp] theorem dismissStatus_fIll : (dismissStatus s).fIll = false := rfl
@[simp] theorem dismissStatus_taken : (dismissStatus s).taken = s.taken := rfl
@[simp] theorem dismissStatus_inq : (dismissStatus s).inq = s.inq := rfl
@[simp] theorem dismissStatus_pkts : (dismissStatus s).pkts = s.pkts := rfl
@[simp] theorem dismissStatus_draws : (dismissStatus s).draws = s.draws := rfl

/-! ## endSession -/

@[simp] theorem endSession_phase : (endSession s).phase = .idle := rfl
@[simp] theorem endSession_de : (endSession s).de = false := rfl
@[simp] theorem endSession_gt : (endSession s).gt = 0 := rfl
@[simp] theorem endSession_txcnt : (endSession s).txcnt = s.txcnt := rfl
@[simp] theorem endSession_pb : (endSession s).pb = s.pb := rfl
@[simp] theorem endSession_pbLen : (endSession s).pbLen = s.pbLen := rfl
@[simp] theorem endSession_sum : (endSession s).sum = s.sum := rfl
@[simp] theorem endSession_done : (endSession s).done = true := rfl
@[simp] theorem endSession_err : (endSession s).err = s.err := rfl
@[simp] theorem endSession_cause : (endSession s).cause = s.cause := rfl
@[simp] theorem endSession_info : (endSession s).info = s.info := rfl
@[simp] theorem endSession_fOvf : (endSession s).fOvf = s.fOvf := rfl
@[simp] theorem endSession_fIll : (endSession s).fIll = s.fIll := rfl
@[simp] theorem endSession_taken : (endSession s).taken = s.taken := rfl
@[simp] theorem endSession_inq : (endSession s).inq = s.inq := rfl
@[simp] theorem endSession_pkts : (endSession s).pkts = s.pkts := rfl
@[simp] theorem endSession_draws : (endSession s).draws = s.draws := rfl

/-! ## resetRegisters -/

@[simp] theorem resetRegisters_phase : (resetRegisters s).phase = .idle := rfl
@[simp] theorem resetRegisters_de : (resetRegisters s).de = false := rfl
@[simp] theorem resetRegisters_gt : (resetRegisters s).gt = 0 := rfl
@[simp] theorem resetRegisters_txcnt : (resetRegisters s).txcnt = 0#9 := rfl
@[simp] theorem resetRegisters_pb : (resetRegisters s).pb = s.pb := rfl
@[simp] theorem resetRegisters_pbLen : (resetRegisters s).pbLen = 0#9 := rfl
@[simp] theorem resetRegisters_sum : (resetRegisters s).sum = 0#8 := rfl
@[simp] theorem resetRegisters_done : (resetRegisters s).done = false := rfl
@[simp] theorem resetRegisters_err : (resetRegisters s).err = false := rfl
@[simp] theorem resetRegisters_cause : (resetRegisters s).cause = .none := rfl
@[simp] theorem resetRegisters_info : (resetRegisters s).info = 0#8 := rfl
@[simp] theorem resetRegisters_fOvf : (resetRegisters s).fOvf = false := rfl
@[simp] theorem resetRegisters_fIll : (resetRegisters s).fIll = false := rfl
@[simp] theorem resetRegisters_taken : (resetRegisters s).taken = s.taken := rfl
@[simp] theorem resetRegisters_inq : (resetRegisters s).inq = s.inq := rfl
@[simp] theorem resetRegisters_pkts : (resetRegisters s).pkts = s.pkts := rfl
@[simp] theorem resetRegisters_draws : (resetRegisters s).draws = s.draws := rfl

/-! ## endOperation -/

@[simp] theorem endOperation_phase : (endOperation s).phase = s.phase := by unfold endOperation; split <;> rfl
@[simp] theorem endOperation_de : (endOperation s).de = s.de := by unfold endOperation; split <;> rfl
@[simp] theorem endOperation_gt : (endOperation s).gt = s.gt := by unfold endOperation; split <;> rfl
@[simp] theorem endOperation_txcnt : (endOperation s).txcnt = s.txcnt := by unfold endOperation; split <;> rfl
@[simp] theorem endOperation_pb : (endOperation s).pb = s.pb := by unfold endOperation; split <;> rfl
@[simp] theorem endOperation_pbLen : (endOperation s).pbLen = s.pbLen := by unfold endOperation; split <;> rfl
@[simp] theorem endOperation_sum : (endOperation s).sum = s.sum := by unfold endOperation; split <;> rfl
@[simp] theorem endOperation_done : (endOperation s).done = s.done := by unfold endOperation; split <;> rfl
@[simp] theorem endOperation_err : (endOperation s).err = s.err := by unfold endOperation; split <;> rfl
@[simp] theorem endOperation_cause : (endOperation s).cause = s.cause := by unfold endOperation; split <;> rfl
@[simp] theorem endOperation_info : (endOperation s).info = s.info := by unfold endOperation; split <;> rfl
@[simp] theorem endOperation_fOvf : (endOperation s).fOvf = s.fOvf := by unfold endOperation; split <;> rfl
@[simp] theorem endOperation_fIll : (endOperation s).fIll = s.fIll := by unfold endOperation; split <;> rfl
@[simp] theorem endOperation_taken : (endOperation s).taken = s.taken := by unfold endOperation; split <;> rfl
@[simp] theorem endOperation_inq : (endOperation s).inq = s.inq := by unfold endOperation; split <;> rfl
@[simp] theorem endOperation_draws : (endOperation s).draws = s.draws := by unfold endOperation; split <;> rfl

/-! ## The reset state -/

@[simp] theorem reset_phase : State.reset.phase = .idle := rfl
@[simp] theorem reset_de : State.reset.de = false := rfl
@[simp] theorem reset_gt : State.reset.gt = 0 := rfl
@[simp] theorem reset_txcnt : State.reset.txcnt = 0#9 := rfl
@[simp] theorem reset_pb : State.reset.pb = [] := rfl
@[simp] theorem reset_pbLen : State.reset.pbLen = 0#9 := rfl
@[simp] theorem reset_sum : State.reset.sum = 0#8 := rfl
@[simp] theorem reset_done : State.reset.done = false := rfl
@[simp] theorem reset_err : State.reset.err = false := rfl
@[simp] theorem reset_cause : State.reset.cause = .none := rfl
@[simp] theorem reset_info : State.reset.info = 0#8 := rfl
@[simp] theorem reset_fOvf : State.reset.fOvf = false := rfl
@[simp] theorem reset_fIll : State.reset.fIll = false := rfl
@[simp] theorem reset_taken : State.reset.taken = [] := rfl
@[simp] theorem reset_inq : State.reset.inq = [] := rfl
@[simp] theorem reset_pkts : State.reset.pkts = [] := rfl
@[simp] theorem reset_draws : State.reset.draws = 0 := rfl

end Sys2Proof.Machine
end

