-- ==== Sys2Proof/Laws/Ops.lean ====
section
/-! SUPPORT. What each shared operation does: one lemma for each of its cases, which later proofs cite instead of unfolding it. -/

namespace Sys2Proof.Machine

variable {s : State}

/-! ## Acceptance -/

theorem accepted_idle (f : State → State) (h : s.phase = .idle) : accepted f s = .next (f s) := by simp [accepted, h]

theorem accepted_busy (f : State → State) (h : s.phase ≠ .idle) : accepted f s = .next s := by simp [accepted, h]

/-- A command presented always leads to a next state: its effect in IDLE, the same state otherwise. -/
theorem accepted_next {f : State → State} {t : State} (h : accepted f s = .next t) :
    (s.phase = .idle ∧ t = f s) ∨ (s.phase ≠ .idle ∧ t = s) := by
  by_cases hp : s.phase = .idle
  · rw [accepted_idle f hp] at h; cases h; exact .inl ⟨hp, rfl⟩
  · rw [accepted_busy f hp] at h; cases h; exact .inr ⟨hp, rfl⟩

/-! ## Pushes -/

theorem ifRoom_room (f : State → State) (h : s.pbLen.toNat < pbCap) : ifRoom f s = f s := by simp [ifRoom, h]

theorem ifRoom_full (f : State → State) (h : ¬ s.pbLen.toNat < pbCap) : ifRoom f s = setOverflow s := by simp [ifRoom, h]

/-- `PB_LEN` counts up without wrapping while there is room. -/
theorem pbLen_succ_toNat (h : s.pbLen.toNat < pbCap) : (s.pbLen + 1#9).toNat = s.pbLen.toNat + 1 := by
  simp only [pbCap] at h
  rw [BitVec.toNat_add]
  simp
  omega

/-- `TXCNT` counts up without wrapping inside the buffer. -/
theorem txcnt_succ_toNat (h : s.txcnt.toNat < pbCap) : (s.txcnt + 1#9).toNat = s.txcnt.toNat + 1 := by
  simp only [pbCap] at h
  rw [BitVec.toNat_add]
  simp
  omega

theorem pushRaw_room (d : Byte) (h : s.pbLen.toNat < pbCap) : pushRaw d s = appendByte d s := ifRoom_room _ h

theorem pushRaw_full (d : Byte) (h : ¬ s.pbLen.toNat < pbCap) : pushRaw d s = setOverflow s := ifRoom_full _ h

theorem pushSummed_room (d : Byte) (h : s.pbLen.toNat < pbCap) : pushSummed d s = addSum d (appendByte d s) :=
  ifRoom_room _ h

theorem pushSummed_full (d : Byte) (h : ¬ s.pbLen.toNat < pbCap) : pushSummed d s = setOverflow s := ifRoom_full _ h

/-- A run of `PK.PUSH` that fits stores the bytes in order and adds them up. -/
theorem foldl_pushSummed (bs : List Byte) (s : State) (h : s.pbLen.toNat + bs.length ≤ pbCap) :
    bs.foldl (fun s d => pushSummed d s) s = { s with
      pb := s.pb.writeAll s.pbLen.toNat bs, pbLen := s.pbLen + BitVec.ofNat 9 bs.length
      sum := s.sum + BitVec.ofNat 8 (docSum bs) } := by
  induction bs generalizing s with
  | nil => simp [Memory.writeAll]
  | cons b bs ih =>
    simp only [List.length_cons] at h
    have hr : s.pbLen.toNat < pbCap := by omega
    have hl := pbLen_succ_toNat hr
    rw [List.foldl_cons, pushSummed_room b hr, ih _ (by simp only [addSum_pbLen, appendByte_pbLen]; omega)]
    simp only [addSum, appendByte, storeIndex, hl, Memory.writeAll, docSum_cons, List.length_cons]
    congr 1
    · apply BitVec.eq_of_toNat_eq
      simp [BitVec.toNat_add]; omega
    · apply BitVec.eq_of_toNat_eq
      simp [BitVec.toNat_add]; omega

/-- A run of `PB.PUSH` that fits stores the bytes in order. -/
theorem foldl_pushRaw (bs : List Byte) (s : State) (h : s.pbLen.toNat + bs.length ≤ pbCap) :
    bs.foldl (fun s d => pushRaw d s) s = { s with
      pb := s.pb.writeAll s.pbLen.toNat bs, pbLen := s.pbLen + BitVec.ofNat 9 bs.length } := by
  induction bs generalizing s with
  | nil => simp [Memory.writeAll]
  | cons b bs ih =>
    simp only [List.length_cons] at h
    have hr : s.pbLen.toNat < pbCap := by omega
    have hl := pbLen_succ_toNat hr
    rw [List.foldl_cons, pushRaw_room b hr, ih _ (by simp only [appendByte_pbLen]; omega)]
    simp only [appendByte, storeIndex, hl, Memory.writeAll, List.length_cons]
    congr 1
    apply BitVec.eq_of_toNat_eq
    simp [BitVec.toNat_add]; omega

/-- The pushes of `ENCODE_PACKET` before `PK.FIN`. -/
theorem pushCovered_eq (t : Byte) (body : List Byte) (h : body.length ≤ 255) : pushCovered t body s = { s with
    pb := s.pb.writeAll 0 (packetCovered t body), pbLen := BitVec.ofNat 9 (5 + body.length)
    sum := BitVec.ofNat 8 (docSum (packetCovered t body)) } := by
  rw [pushCovered, foldl_pushSummed _ _ (by simp [pbCap]; omega)]
  simp [clearSum, clearBuffer]

/-- `ENCODE_PACKET` leaves the whole packet in the buffer and a zero sum. -/
theorem encodeIntoBuffer_eq (t : Byte) (body : List Byte) (h : body.length ≤ 255) : encodeIntoBuffer t body s = { s with
    pb := s.pb.writeAll 0 (packetBytes t body), pbLen := BitVec.ofNat 9 (6 + body.length), sum := 0#8 } := by
  have hn : (BitVec.ofNat 9 (5 + body.length)).toNat = 5 + body.length := by simp; omega
  rw [encodeIntoBuffer, pushCovered_eq t body h, pushChecksum,
    pushSummed_room _ (by simp only [hn, pbCap]; omega)]
  simp only [addSum, appendByte, storeIndex, checksumOperand, hn, add_neg8, packetBytes, Memory.writeAll_append,
    packetCovered_length, docChecksum_eq_neg8, Nat.zero_add, Memory.writeAll]
  congr 1
  apply BitVec.eq_of_toNat_eq
  simp [BitVec.toNat_add]; omega

/-! ## Packets of the host -/

theorem sendPacket_refused (P : Params) (t : Byte) {body : List Byte} (h : ¬ body.length ≤ 255) :
    sendPacket P t body s = .refused .bodyTooLarge := by simp [sendPacket, h]

theorem sendPacket_accepted (P : Params) (t : Byte) {body : List Byte} (h : body.length ≤ 255) :
    sendPacket P t body s = accepted (fun s => startSession P (encodeIntoBuffer t body s)) s := by simp [sendPacket, h]

/-! ## Byte transfers -/

/-- Everything a byte transfer can do. -/
theorem transferByte_next {t : State} (h : transferByte s = .next t) :
    (s.txcnt < s.pbLen ∧ s.txcnt.toNat < pbCap ∧
      t = { s with taken := s.taken ++ [s.pb.byteAt s.txcnt.toNat], txcnt := s.txcnt + 1#9 }) ∨
    (¬ s.txcnt < s.pbLen ∧ t = { s with txcnt := s.txcnt + 1#9 }) := by
  by_cases hl : s.txcnt < s.pbLen
  · by_cases hi : s.txcnt.toNat < pbCap
    · have hi' : offerIndex s < pbCap := hi
      simp only [transferByte, if_pos hl, if_pos hi', Host.Outcome.next.injEq] at h
      exact .inl ⟨hl, hi, h.symm⟩
    · have hi' : ¬ offerIndex s < pbCap := hi
      simp [transferByte, hl, hi'] at h
  · simp only [transferByte, if_neg hl, Host.Outcome.next.injEq] at h
    exact .inr ⟨hl, h.symm⟩

theorem transferByte_offered (h : s.txcnt < s.pbLen) (hc : s.pbLen.toNat ≤ pbCap) :
    transferByte s = .next { s with taken := s.taken ++ [s.pb.byteAt s.txcnt.toNat], txcnt := s.txcnt + 1#9 } := by
  have hi : offerIndex s < pbCap := Nat.lt_of_lt_of_le (BitVec.lt_def.mp h) hc
  rw [transferByte, if_pos h, if_pos hi]
  rfl

/-! ## What the next step reads -/

theorem takeInputs_queued {x : Inputs} {rest : List Inputs} (h : s.inq = x :: rest) :
    takeInputs s = (x, { s with inq := rest }) := by simp [takeInputs, h]

theorem takeInputs_free (h : s.inq = []) :
    takeInputs s = (Config.freeInputs s.draws, { s with draws := s.draws + 1 }) := by simp [takeInputs, h]

theorem takePacket_busy (h : s.phase ≠ .idle) : takePacket s = none := by
  cases hp : s.phase <;> simp_all [takePacket]

theorem takePacket_empty (h : s.pkts = []) : takePacket s = none := by
  cases hp : s.phase <;> simp [takePacket, hp, h]

theorem takePacket_idle {p : QueuedPacket} {rest : List QueuedPacket} (hp : s.phase = .idle) (h : s.pkts = p :: rest) :
    takePacket s = some (p.bytes, { s with pkts := rest }) := by simp [takePacket, hp, h]

theorem takePacket_some {bytes : Packet} {u : State} (h : takePacket s = some (bytes, u)) :
    s.phase = .idle ∧ ∃ p rest, s.pkts = p :: rest ∧ bytes = p.bytes ∧ u = { s with pkts := rest } := by
  simp only [takePacket] at h
  split at h
  · rename_i hp hk
    cases h; exact ⟨hp, _, _, hk, rfl, rfl⟩
  · cases h

/-- All that the end of an operation can do: drop packets from the front of the queue. -/
theorem endOperation_eq (s : State) : endOperation s = { s with pkts := (endOperation s).pkts } := by
  unfold endOperation; split <;> rfl

theorem endOperation_busy (h : s.phase ≠ .idle) : endOperation s = s := if_neg (fun hc => h hc.1)

theorem endOperation_empty (h : s.pkts = []) : endOperation s = s := by
  unfold endOperation; split
  · rw [h, List.dropWhile_nil, ← h]
  · rfl

/-- A packet that begins an operation, or follows one that was sent, stays. -/
theorem endOperation_keeps {p : QueuedPacket} {rest : List QueuedPacket} (h : s.pkts = p :: rest)
    (hf : p.follows = true → s.done = true ∧ s.err = false) : endOperation s = s := by
  unfold endOperation; split
  · rename_i hc
    have : p.follows = false := by
      by_contra hp
      exact hc.2 (hf (by simpa using hp))
    rw [h, List.dropWhile_cons_of_neg (by simp [this]), ← h]
  · rfl

/-- A packet that follows one that was not sent goes, and the queue behind it is looked at in the same way (R233). -/
theorem endOperation_drops {p : QueuedPacket} {rest : List QueuedPacket} (hi : s.phase = .idle) (h : s.pkts = p :: rest)
    (hp : p.follows = true) (hs : ¬ (s.done = true ∧ s.err = false)) :
    endOperation s = endOperation { s with pkts := rest } := by
  simp only [endOperation, hi, hs, not_false_eq_true, and_self, if_true, h, List.dropWhile_cons, hp]

end Sys2Proof.Machine
end

