-- ==== Sys2Proof/Laws/PerInstr.lean ====
section
/-! SUPPORT. The per-instruction law `Format` (spec 30_encoding.md rule R95): a well-formed instruction is one command word,
which decodes to it, or one packet of 6 to 261 bytes whose bytes sum to 0 modulo 256. -/

namespace Sys2Proof.Laws.Format

/-- What `Format` says of an instruction. -/
def Statement (i : Instr) : Prop :=
  wellFormed i = true →
    match encode i with
    | .command w => decodeCommand w = i
    | .packet bytes => 6 ≤ bytes.length ∧ bytes.length ≤ 261 ∧ docSum bytes % 256 = 0

/-- A packet of at most 255 body bytes has 6 to 261 bytes, which sum to 0 modulo 256. -/
theorem packet (t : Byte) (body : List Byte) (h : body.length ≤ 255) :
    6 ≤ (packetBytes t body).length ∧ (packetBytes t body).length ≤ 261 ∧ docSum (packetBytes t body) % 256 = 0 := by
  refine ⟨by simp, by simp only [packetBytes_length]; omega, ?_⟩
  simp only [packetBytes, docSum_append, docSum_cons, docSum_nil, docChecksum, BitVec.toNat_ofNat]
  omega

/-- The sixteen commands, one operation code at a time. -/
theorem commands (d : Byte) :
    [Instr.nop d, .csClr d, .csAdd d, .pbClr d, .pbPush d, .pkPush d, .pkFin d, .txSend d, .stClr d, .reserved9 d, .reservedA d,
      .reservedB d, .reservedC d, .reservedD d, .reservedE d, .reservedF d].Forall Statement := by
  simp [Statement, encode, decodeCommand]

theorem nop (d : Byte) : Statement (.nop d) := (commands d).1

theorem csClr (d : Byte) : Statement (.csClr d) := (commands d).2.1

theorem csAdd (d : Byte) : Statement (.csAdd d) := (commands d).2.2.1

theorem pbClr (d : Byte) : Statement (.pbClr d) := (commands d).2.2.2.1

theorem pbPush (d : Byte) : Statement (.pbPush d) := (commands d).2.2.2.2.1

theorem pkPush (d : Byte) : Statement (.pkPush d) := (commands d).2.2.2.2.2.1

theorem pkFin (d : Byte) : Statement (.pkFin d) := (commands d).2.2.2.2.2.2.1

theorem txSend (d : Byte) : Statement (.txSend d) := (commands d).2.2.2.2.2.2.2.1

theorem stClr (d : Byte) : Statement (.stClr d) := (commands d).2.2.2.2.2.2.2.2.1

theorem reserved9 (d : Byte) : Statement (.reserved9 d) := (commands d).2.2.2.2.2.2.2.2.2.1

theorem reservedA (d : Byte) : Statement (.reservedA d) := (commands d).2.2.2.2.2.2.2.2.2.2.1

theorem reservedB (d : Byte) : Statement (.reservedB d) := (commands d).2.2.2.2.2.2.2.2.2.2.2.1

theorem reservedC (d : Byte) : Statement (.reservedC d) := (commands d).2.2.2.2.2.2.2.2.2.2.2.2.1

theorem reservedD (d : Byte) : Statement (.reservedD d) := (commands d).2.2.2.2.2.2.2.2.2.2.2.2.2.1

theorem reservedE (d : Byte) : Statement (.reservedE d) := (commands d).2.2.2.2.2.2.2.2.2.2.2.2.2.2.1

theorem reservedF (d : Byte) : Statement (.reservedF d) := (commands d).2.2.2.2.2.2.2.2.2.2.2.2.2.2.2

theorem pkt (t : Byte) (body : List Byte) : Statement (.pkt t body) := fun h => by
  simp only [wellFormed, bodyFits, Bool.and_eq_true, decide_eq_true_eq] at h
  exact packet t body h.1

theorem pktMFrag (k : BitVec 4) (text : List Byte) : Statement (.pktMFrag k text) := fun h => by
  simp only [wellFormed, fragTextOk, Bool.and_eq_true, decide_eq_true_eq] at h
  exact packet typeM (fragBody k text) (by simp only [fragBody, List.length_cons]; omega)

theorem pktMReset : Statement .pktMReset := fun _ => packet typeM resetBody (by decide)

theorem pktT : Statement .pktT := fun _ => packet typeT [] (by decide)

end Sys2Proof.Laws.Format
end

