-- ==== Sys2Proof/Laws/Tick.lean ====
section
/-! SUPPORT. Everything one tick, and one step, can do. -/

namespace Sys2Proof.Machine

/-- What an accepted command does to the state; a packet form is no command of the port. -/
def commandEffect : Instr → State → State
  | .nop _ => fun s => s
  | .csClr _ => clearSum
  | .csAdd d => addSum d
  | .pbClr _ => clearBuffer
  | .pbPush d => pushRaw d
  | .pkPush d => pushSummed d
  | .pkFin _ => pushChecksum
  | .txSend _ => startSession Config.params
  | .stClr _ => dismissStatus
  | .reserved9 _ | .reservedA _ | .reservedB _ | .reservedC _ | .reservedD _ | .reservedE _ | .reservedF _ => setIllegal
  | .pkt _ _ | .pktMFrag _ _ | .pktMReset | .pktT => fun s => s

/-- The decoded word is one of the sixteen commands. -/
theorem decodeCommand_cases (w : CmdWord) :
    ∃ d, decodeCommand w = .nop d ∨ decodeCommand w = .csClr d ∨ decodeCommand w = .csAdd d ∨ decodeCommand w = .pbClr d ∨
      decodeCommand w = .pbPush d ∨ decodeCommand w = .pkPush d ∨ decodeCommand w = .pkFin d ∨ decodeCommand w = .txSend d ∨
      decodeCommand w = .stClr d ∨ decodeCommand w = .reserved9 d ∨ decodeCommand w = .reservedA d ∨
      decodeCommand w = .reservedB d ∨ decodeCommand w = .reservedC d ∨ decodeCommand w = .reservedD d ∨
      decodeCommand w = .reservedE d ∨ decodeCommand w = .reservedF d := by
  refine ⟨dField w, ?_⟩
  unfold decodeCommand
  split <;> simp

/-- A command presented on the port is accepted with its effect. -/
theorem exec_decodeCommand (w : CmdWord) (s : State) :
    exec (decodeCommand w) s = accepted (commandEffect (decodeCommand w)) s := by
  obtain ⟨d, h⟩ := decodeCommand_cases w
  rcases h with h | h | h | h | h | h | h | h | h | h | h | h | h | h | h | h <;> rw [h] <;> rfl

/-- Everything a tick from `s` with inputs `x` can lead to. -/
inductive TickCase (x : Inputs) (s : State) : State → Prop where
  | reset (hr : x.rst = true) : TickCase x s (resetRegisters s)
  | noCommand (hr : x.rst = false) (hp : s.phase = .idle) (hv : x.cmdValid = false) : TickCase x s s
  | command (hr : x.rst = false) (hp : s.phase = .idle) (hv : x.cmdValid = true) :
      TickCase x s (commandEffect (decodeCommand x.cmd) s)
  | preEnd (hr : x.rst = false) (hp : s.phase = .pre) (hg : s.gt = 1) : TickCase x s { s with phase := .write, gt := 0 }
  | preCount (hr : x.rst = false) (hp : s.phase = .pre) (hg : s.gt ≠ 1) : TickCase x s { s with gt := s.gt - 1 }
  | writeFault (hr : x.rst = false) (hp : s.phase = .write) (hf : x.chFault = true) :
      TickCase x s (raiseFault .writeFault x.chFcode s)
  | handOver (hr : x.rst = false) (hp : s.phase = .write) (hf : x.chFault = false) (hc : s.txcnt = s.pbLen) :
      TickCase x s { s with phase := .flush, gt := Config.params.flushTmo }
  | transfer (hr : x.rst = false) (hp : s.phase = .write) (hf : x.chFault = false) (hy : x.chReady = true)
      (hc : s.txcnt < s.pbLen) (hi : s.txcnt.toNat < pbCap) :
      TickCase x s { s with taken := s.taken ++ [s.pb.byteAt s.txcnt.toNat], txcnt := s.txcnt + 1#9 }
  | overrun (hr : x.rst = false) (hp : s.phase = .write) (hf : x.chFault = false) (hy : x.chReady = true)
      (hc : s.pbLen < s.txcnt) : TickCase x s { s with txcnt := s.txcnt + 1#9 }
  | notReady (hr : x.rst = false) (hp : s.phase = .write) (hf : x.chFault = false) (hy : x.chReady = false)
      (hc : s.txcnt ≠ s.pbLen) : TickCase x s s
  | flushFault (hr : x.rst = false) (hp : s.phase = .flush) (hf : x.chFault = true) :
      TickCase x s (raiseFault .flushFault x.chFcode s)
  | drained (hr : x.rst = false) (hp : s.phase = .flush) (hf : x.chFault = false) (hi : x.chIdle = true) :
      TickCase x s { s with phase := .post, gt := Config.params.postTicks }
  | timeout (hr : x.rst = false) (hp : s.phase = .flush) (hf : x.chFault = false) (hi : x.chIdle = false)
      (hn : Config.params.flushTmo ≠ 0) (hg : s.gt = 1) : TickCase x s (raiseFault .flushTimeout 0#8 s)
  | flushCount (hr : x.rst = false) (hp : s.phase = .flush) (hf : x.chFault = false) (hi : x.chIdle = false)
      (hn : Config.params.flushTmo ≠ 0) (hg : s.gt ≠ 1) : TickCase x s { s with gt := s.gt - 1 }
  | flushWait (hr : x.rst = false) (hp : s.phase = .flush) (hf : x.chFault = false) (hi : x.chIdle = false)
      (hn : Config.params.flushTmo = 0) : TickCase x s s
  | postEnd (hr : x.rst = false) (hp : s.phase = .post) (hg : s.gt = 1) : TickCase x s (endSession s)
  | postCount (hr : x.rst = false) (hp : s.phase = .post) (hg : s.gt ≠ 1) : TickCase x s { s with gt := s.gt - 1 }

/-- The inversion of a tick. -/
theorem tick_case {x : Inputs} {s t : State} (h : tick x s = .next t) : TickCase x s t := by
  unfold tick at h
  split at h
  · cases h; exact .reset ‹_›
  · have hr : x.rst = false := by simpa using ‹¬ x.rst = true›
    split at h <;> rename_i hp
    · unfold idleTick at h
      split at h
      · rename_i hv
        rw [exec_decodeCommand, accepted_idle _ hp] at h
        cases h; exact .command hr hp hv
      · rename_i hv
        cases h; exact .noCommand hr hp (by simpa using hv)
    · cases h
      unfold preTick
      split
      · exact .preEnd hr hp ‹_›
      · exact .preCount hr hp ‹_›
    · unfold writeTick at h
      split at h
      · cases h; exact .writeFault hr hp ‹_›
      · have hf : x.chFault = false := by simpa using ‹¬ x.chFault = true›
        split at h
        · cases h; exact .handOver hr hp hf ‹_›
        · rename_i hc
          split at h
          · rename_i hy
            rcases transferByte_next h with ⟨hl, hi, rfl⟩ | ⟨hl, rfl⟩
            · exact .transfer hr hp hf hy hl hi
            · refine .overrun hr hp hf hy ?_
              simp only [BitVec.lt_def, ← BitVec.toNat_inj] at hl hc ⊢
              omega
          · rename_i hy
            cases h; exact .notReady hr hp hf (by simpa using hy) hc
    · cases h
      unfold flushTick
      split
      · exact .flushFault hr hp ‹_›
      · have hf : x.chFault = false := by simpa using ‹¬ x.chFault = true›
        split
        · exact .drained hr hp hf ‹_›
        · have hi : x.chIdle = false := by simpa using ‹¬ x.chIdle = true›
          split
          · split
            · exact .timeout hr hp hf hi ‹_› ‹_›
            · exact .flushCount hr hp hf hi ‹_› ‹_›
          · exact .flushWait hr hp hf hi (by simpa using ‹¬ Config.params.flushTmo ≠ 0›)
    · cases h
      unfold postTick
      split
      · exact .postEnd hr hp ‹_›
      · exact .postCount hr hp ‹_›

/-! ## A step -/

/-- Where a session runs or no packet waits, a step is a tick. -/
theorem step_noPacket {s : State} (hn : s.phase ≠ .idle ∨ s.pkts = []) : step s = tick (takeInputs s).1 (takeInputs s).2 := by
  rcases hn with hn | hn
  · simp [step, endOperation_busy hn, takePacket_busy hn]
  · simp [step, endOperation_empty hn, takePacket_empty hn]

/-- A step that takes a queued sample. -/
theorem step_queued {s : State} {x : Inputs} {rest : List Inputs} (hn : s.phase ≠ .idle ∨ s.pkts = []) (h : s.inq = x :: rest) :
    step s = tick x { s with inq := rest } := by
  rw [step_noPacket hn, takeInputs_queued h]

/-- A step that draws a free sample. -/
theorem step_free {s : State} (hn : s.phase ≠ .idle ∨ s.pkts = []) (h : s.inq = []) :
    step s = tick (Config.freeInputs s.draws) { s with draws := s.draws + 1 } := by
  rw [step_noPacket hn, takeInputs_free h]

/-- A step that issues a packet: the first of an operation, or one that follows a packet that was sent. -/
theorem step_packet {s : State} {p : QueuedPacket} {rest : List QueuedPacket} (hp : s.phase = .idle) (h : s.pkts = p :: rest)
    (hf : p.follows = true → s.done = true ∧ s.err = false) : step s = runPacket p.bytes { s with pkts := rest } := by
  simp [step, endOperation_keeps h hf, takePacket_idle hp h]

/-- A step at which the host gives up a packet: it is the step of the state without it (R233). -/
theorem step_giveUp {s : State} {p : QueuedPacket} {rest : List QueuedPacket} (hi : s.phase = .idle) (h : s.pkts = p :: rest)
    (hp : p.follows = true) (hs : ¬ (s.done = true ∧ s.err = false)) : step s = step { s with pkts := rest } := by
  simp only [step, endOperation_drops hi h hp hs]

/-- Every step is the issue of a packet in IDLE, or a tick with one sample taken, after the host has given up the packets of an
operation that ended; while a session runs it gives up none. -/
theorem step_cases (s : State) :
    (∃ (bytes : Packet) (rest : List QueuedPacket), s.phase = .idle ∧ step s = runPacket bytes { s with pkts := rest }) ∨
    (∃ (x : Inputs) (q : List Inputs) (n : Nat) (k : List QueuedPacket), (s.phase ≠ .idle → k = s.pkts) ∧
      step s = tick x { s with inq := q, draws := n, pkts := k }) := by
  have he := endOperation_eq s
  have hb : s.phase ≠ .idle → (endOperation s).pkts = s.pkts := fun h => by rw [endOperation_busy h]
  unfold step
  cases hk : takePacket (endOperation s) with
  | some r =>
    obtain ⟨bytes, u⟩ := r
    obtain ⟨hp, p, rest, hr, rfl, rfl⟩ := takePacket_some hk
    rw [he] at hp
    exact .inl ⟨p.bytes, rest, hp, by rw [he]⟩
  | none =>
    cases hq : (endOperation s).inq with
    | cons x rest =>
      exact .inr ⟨x, rest, s.draws, (endOperation s).pkts, hb, by rw [takeInputs_queued hq]; rw [he]⟩
    | nil =>
      refine .inr ⟨_, [], _, (endOperation s).pkts, hb, by rw [takeInputs_free hq]; dsimp only; rw [← hq, he]⟩

/-- A packet form that leads to a next state has sent its packet, or waits. -/
theorem sendPacket_next {P : Params} {t : Byte} {body : List Byte} {s u : State} (h : sendPacket P t body s = .next u) :
    body.length ≤ 255 ∧ ((s.phase = .idle ∧ u = startSession P (encodeIntoBuffer t body s)) ∨ (s.phase ≠ .idle ∧ u = s)) := by
  by_cases hb : body.length ≤ 255
  · rw [sendPacket_accepted P t hb] at h
    exact ⟨hb, accepted_next h⟩
  · rw [sendPacket_refused P t hb] at h; cases h

/-- A packet the decoder reads is a packet form: its meaning is `sendPacket` of a type and a body. -/
theorem exec_packetForm (t : Byte) (body : List Byte) :
    ∃ (t' : Byte) (body' : List Byte), ∀ s, exec (packetForm t body) s = sendPacket Config.params t' body' s := by
  unfold packetForm
  split
  · exact ⟨typeT, [], fun _ => rfl⟩
  · split
    · exact ⟨typeM, resetBody, fun _ => rfl⟩
    · split
      · split
        · exact ⟨typeM, _, fun _ => rfl⟩
        · exact ⟨t, body, fun _ => rfl⟩
      · exact ⟨t, body, fun _ => rfl⟩

/-- A packet issued in IDLE that leads to a next state starts a session on some packet of at most 261 bytes. -/
theorem runPacket_next {bytes : List Byte} {s u : State} (hp : s.phase = .idle) (h : runPacket bytes s = .next u) :
    ∃ (t : Byte) (body : List Byte), body.length ≤ 255 ∧ u = startSession Config.params (encodeIntoBuffer t body s) := by
  unfold runPacket at h
  split at h
  · rename_i i hi
    simp only [decode] at hi
    have : ∃ t body, i = packetForm t body := by
      unfold decodePacket at hi
      split at hi
      · repeat' split at hi
        all_goals cases hi
        exact ⟨_, _, rfl⟩
      · cases hi
    obtain ⟨t, body, rfl⟩ := this
    obtain ⟨t', body', he⟩ := exec_packetForm t body
    rw [he] at h
    obtain ⟨hb, ⟨-, rfl⟩ | ⟨hn, -⟩⟩ := sendPacket_next h
    · exact ⟨t', body', hb, rfl⟩
    · exact absurd hp hn
  · cases h

end Sys2Proof.Machine
end

