-- ==== Sys2Proof/Laws/Run.lean ====
section
/-! SUPPORT. Runs of steps and sequences of instructions: how they are put together. -/

namespace Sys2Proof.Machine

@[simp] theorem run_zero (s : State) : run 0 s = .next s := rfl

/-- A run that goes on from where a run has led. -/
theorem run_add {m : Nat} {s t : State} (n : Nat) (h : run m s = .next t) : run (m + n) s = run n t := by
  induction m generalizing s with
  | zero => cases h; simp
  | succ m ih =>
    rw [Nat.succ_add]
    simp only [run] at h ⊢
    split at h
    · rename_i u hu; exact ih h
    · cases h
    · cases h

/-- One step more. -/
theorem run_succ_last {n : Nat} {s t : State} (h : run n s = .next t) : run (n + 1) s = step t := by
  rw [run_add 1 h]
  simp only [run]
  cases step t <;> rfl

/-- A run of `n + 1` steps that leads somewhere has led somewhere after `n`. -/
theorem run_succ_inv {n : Nat} {s u : State} (h : run (n + 1) s = .next u) : ∃ t, run n s = .next t ∧ step t = .next u := by
  cases hn : run n s with
  | next t => exact ⟨t, rfl, by rw [← run_succ_last hn]; exact h⟩
  | fault f =>
    exfalso
    have : ∀ (m : Nat) (s : State), run m s = .fault f → run (m + 1) s = .fault f := by
      intro m
      induction m with
      | zero => intro s h; cases h
      | succ m ih =>
        intro s h
        rw [run] at h ⊢
        split at h
        · exact ih _ h
        · exact h
        · cases h
    rw [this n s hn] at h; cases h
  | refused r =>
    exfalso
    have : ∀ (m : Nat) (s : State), run m s = .refused r → run (m + 1) s = .refused r := by
      intro m
      induction m with
      | zero => intro s h; cases h
      | succ m ih =>
        intro s h
        rw [run] at h ⊢
        split at h
        · exact ih _ h
        · cases h
        · exact h
    rw [this n s hn] at h; cases h

/-- While a session runs, a step is a tick with the next sample. -/
theorem step_busy_queued {s : State} {x : Inputs} {rest : List Inputs} (hp : s.phase ≠ .idle) (h : s.inq = x :: rest) :
    step s = tick x { s with inq := rest } := step_queued (.inl hp) h

/-- While a session runs, a step is a tick, with a queued sample or a free one. -/
theorem step_busy (s : State) (hp : s.phase ≠ .idle) :
    ∃ (x : Inputs) (q : List Inputs) (n : Nat), step s = tick x { s with inq := q, draws := n } := by
  rcases step_cases s with ⟨_, _, hi, _⟩ | ⟨x, q, n, k, hk, h⟩
  · exact absurd hi hp
  · exact ⟨x, q, n, by rw [h, hk hp]⟩

/-- The samples that are left after `k` of them. -/
theorem drop_eq_cons {α : Type} {l : List α} {k : Nat} (h : k < l.length) : l.drop k = l[k] :: l.drop (k + 1) :=
  List.drop_eq_getElem_cons h

/-- Instructions presented after others. -/
theorem execAll_append {is : List Instr} {s t : State} (js : List Instr) (h : execAll is s = .next t) :
    execAll (is ++ js) s = execAll js t := by
  induction is generalizing s with
  | nil => cases h; rfl
  | cons i is ih =>
    simp only [List.cons_append, execAll] at h ⊢
    split at h
    · exact ih h
    · cases h
    · cases h

end Sys2Proof.Machine
end

