-- ==== Sys2Proof/Laws/Session.lean ====
section
/-! SUPPORT. Sessions whose queue repeats one sample: what shows that a whole session can be run. -/

namespace Sys2Proof.Machine

/-- The run of `n` steps from `s` is in no IDLE state before its end. -/
def staysBusy (n : Nat) (s : State) : Prop := ∀ k u, k < n → run k s = .next u → u.phase ≠ .idle

theorem staysBusy_zero (s : State) : staysBusy 0 s := fun _ _ h => absurd h (Nat.not_lt_zero _)

theorem staysBusy_one {s : State} (h : s.phase ≠ .idle) : staysBusy 1 s := by
  intro k u hk hr
  obtain rfl : k = 0 := by omega
  cases hr; exact h

theorem staysBusy_add {m n : Nat} {s t : State} (hm : staysBusy m s) (hr : run m s = .next t) (hn : staysBusy n t) :
    staysBusy (m + n) s := by
  intro k u hk hu
  by_cases h : k < m
  · exact hm k u h hu
  · refine hn (k - m) u (by omega) ?_
    rw [← run_add (k - m) hr, show m + (k - m) = k by omega]
    exact hu

/-- PRE on a queue that begins with enough copies of a sample without reset. -/
theorem run_pre_repeat {x : Inputs} (hr : x.rst = false) (n : Nat) (q : List Inputs) :
    ∀ s : State, s.phase = .pre → s.gt = n + 1 → s.inq = List.replicate (n + 1) x ++ q →
      run (n + 1) s = .next { s with phase := .write, gt := 0, inq := q } ∧ staysBusy (n + 1) s := by
  induction n with
  | zero =>
    intro s hp hg hq
    refine ⟨?_, staysBusy_one (by simp [hp])⟩
    have : step s = _ := step_busy_queued (by simp [hp]) hq
    simp [run, this, tick, hr, hp, preTick, hg]
  | succ n ih =>
    intro s hp hg hq
    have h1 : run 1 s = .next { s with gt := n + 1, inq := List.replicate (n + 1) x ++ q } := by
      have : step s = _ := step_busy_queued (by simp [hp]) hq
      simp [run, this, tick, hr, hp, preTick, hg]
    obtain ⟨h2, h3⟩ := ih { s with gt := n + 1, inq := List.replicate (n + 1) x ++ q } hp rfl rfl
    rw [Nat.add_comm (n + 1) 1]
    exact ⟨by rw [run_add _ h1, h2], staysBusy_add (staysBusy_one (by simp [hp])) h1 h3⟩

/-- POST on a queue that begins with enough copies of a sample without reset. -/
theorem run_post_repeat {x : Inputs} (hr : x.rst = false) (n : Nat) (q : List Inputs) :
    ∀ s : State, s.phase = .post → s.gt = n + 1 → s.inq = List.replicate (n + 1) x ++ q →
      run (n + 1) s = .next { endSession s with inq := q } ∧ staysBusy (n + 1) s := by
  induction n with
  | zero =>
    intro s hp hg hq
    refine ⟨?_, staysBusy_one (by simp [hp])⟩
    have : step s = _ := step_busy_queued (by simp [hp]) hq
    simp [run, this, tick, hr, hp, postTick, hg]
    rfl
  | succ n ih =>
    intro s hp hg hq
    have h1 : run 1 s = .next { s with gt := n + 1, inq := List.replicate (n + 1) x ++ q } := by
      have : step s = _ := step_busy_queued (by simp [hp]) hq
      simp [run, this, tick, hr, hp, postTick, hg]
    obtain ⟨h2, h3⟩ := ih { s with gt := n + 1, inq := List.replicate (n + 1) x ++ q } hp rfl rfl
    rw [Nat.add_comm (n + 1) 1]
    exact ⟨by rw [run_add _ h1, h2]; rfl, staysBusy_add (staysBusy_one (by simp [hp])) h1 h3⟩

end Sys2Proof.Machine
end

