-- ==== Sys2Proof/Machine/Assembler.lean ====
section
/-! DEFINITION. The textual syntax of commands (spec 30_encoding.md rule R96): a mnemonic of the table for rule R82, for the
three commands that use `d` one space and the operand as a decimal or `0x` hexadecimal number 0 to 255; one command a line;
`;` starts a comment. Lines are lists of characters. -/

namespace Sys2Proof.Machine

/-- The digit a character stands for in bases up to 16. -/
def digitValue (c : Char) : Option Nat :=
  if '0'.toNat ≤ c.toNat ∧ c.toNat ≤ '9'.toNat then some (c.toNat - '0'.toNat)
  else if 'a'.toNat ≤ c.toNat ∧ c.toNat ≤ 'f'.toNat then some (c.toNat - 'a'.toNat + 10)
  else if 'A'.toNat ≤ c.toNat ∧ c.toNat ≤ 'F'.toNat then some (c.toNat - 'A'.toNat + 10)
  else none

/-- Digits in base `base`, continuing the number `acc`. -/
def digitsValue (base : Nat) : Nat → List Char → Option Nat
  | acc, [] => some acc
  | acc, c :: cs =>
    match digitValue c with
    | some v => if v < base then digitsValue base (acc * base + v) cs else none
    | none => none

/-- A decimal or `0x` hexadecimal number 0 to 255 (R96). -/
def operandValue (cs : List Char) : Option Byte :=
  let n : Option Nat :=
    match cs with
    | '0' :: 'x' :: c :: hex => digitsValue 16 0 (c :: hex)
    | c :: dec => digitsValue 10 0 (c :: dec)
    | [] => none
  match n with
  | some v => if v ≤ 255 then some (BitVec.ofNat 8 v) else none
  | none => none

/-- The mnemonics without operand and their codes (R82). -/
def plainMnemonics : List (List Char × BitVec 4) :=
  [(['N', 'O', 'P'], 0x0#4), (['C', 'S', '.', 'C', 'L', 'R'], 0x1#4), (['P', 'B', '.', 'C', 'L', 'R'], 0x3#4),
   (['P', 'K', '.', 'F', 'I', 'N'], 0x6#4), (['T', 'X', '.', 'S', 'E', 'N', 'D'], 0x7#4), (['S', 'T', '.', 'C', 'L', 'R'], 0x8#4)]

/-- The mnemonics with operand and their codes (R82). -/
def operandMnemonics : List (List Char × BitVec 4) :=
  [(['C', 'S', '.', 'A', 'D', 'D'], 0x2#4), (['P', 'B', '.', 'P', 'U', 'S', 'H'], 0x4#4), (['P', 'K', '.', 'P', 'U', 'S', 'H'], 0x5#4)]

/-- A line without its comment and without the spaces around it. -/
def stripLine (line : List Char) : List Char :=
  (((line.takeWhile (· ≠ ';')).dropWhile (· = ' ')).reverse.dropWhile (· = ' ')).reverse

/-- Why a line is no command. -/
inductive AsmError where
  /-- no mnemonic of rule R82, or an operand where none stands -/
  | unknownCommand
  /-- an operand that is missing or is no number 0 to 255 -/
  | badOperand
deriving DecidableEq, Repr

/-- One line: nothing for a blank or comment line, else the word `op ∥ d`, with `d = 0x00` where unused (R96). -/
def assembleLine (line : List Char) : Except AsmError (Option CmdWord) :=
  let text := stripLine line
  if text = [] then .ok none
  else match plainMnemonics.lookup text with
    | some op => .ok (some (plainWord op))
    | none =>
      match operandMnemonics.lookup (text.takeWhile (· ≠ ' ')) with
      | some op =>
        match operandValue ((text.dropWhile (· ≠ ' ')).drop 1) with
        | some d => .ok (some (commandWord op d))
        | none => .error .badOperand
      | none => .error .unknownCommand

/-- A program: one command a line, in order (R96). -/
def assemble : List (List Char) → Except AsmError (List CmdWord)
  | [] => .ok []
  | line :: rest =>
    match assembleLine line, assemble rest with
    | .ok (some w), .ok ws => .ok (w :: ws)
    | .ok none, .ok ws => .ok ws
    | .error e, _ => .error e
    | .ok _, .error e => .error e

end Sys2Proof.Machine
end

