-- ==== Sys2Proof/Tests/Slice0.lean ====
section
/-! SUPPORT. The model's own tests. `test_` theorems hold the model against words, vectors and tables of the spec, copied from the
place each names; `wit_<Name>` theorems show that the hypotheses of `Obligations.<Name>` can all be met, clause by clause, at
boundary values. -/

namespace Sys2Proof.Tests

open Sys2Proof.Machine

/-- `n` copies of a byte. -/
def copies (n : Nat) (b : Byte) : List Byte := List.replicate n b

@[simp] theorem copies_length (n : Nat) (b : Byte) : (copies n b).length = n := List.length_replicate

/-! ## Well-formedness: the ill-formed term of each check is refused -/

theorem test_wf_body_256 : wellFormed (.pkt 0x49#8 (copies 256 0x00#8)) = false := by
  simp [wellFormed, bodyFits]

theorem test_wf_own_form_terminator : wellFormed (.pkt 0x54#8 []) = false := by decide

theorem test_wf_own_form_reset : wellFormed (.pkt 0x4D#8 [0x00#8, 0x01#8, 0x00#8]) = false := by decide

theorem test_wf_own_form_fragment : wellFormed (.pkt 0x4D#8 [0x00#8, 0x01#8, 0x11#8, 0x41#8]) = false := by decide

theorem test_wf_index_0 : wellFormed (.pktMFrag 0#4 [0x41#8]) = false := by decide

theorem test_wf_text_0 : wellFormed (.pktMFrag 1#4 []) = false := by decide

theorem test_wf_text_13 : wellFormed (.pktMFrag 1#4 (copies 13 0x41#8)) = false := by decide

/-- A body that only looks like a fragment (sub-type 0x12, or 13 text bytes) has no form of its own (R91, R92). -/
theorem test_wf_pkt_near_fragments :
    wellFormed (.pkt 0x4D#8 [0x00#8, 0x01#8, 0x12#8, 0x41#8]) = true ∧
    wellFormed (.pkt 0x4D#8 ([0x00#8, 0x01#8, 0x11#8] ++ copies 13 0x41#8)) = true := by decide

/-! ## Decoding: words written out from rule R82 (`op` in bits 11:8, `d` in bits 7:0) -/

theorem test_decode_nop : decodeCommand 0b0000_00000000#12 = .nop 0x00#8 ∧ decodeCommand 0b0000_10110111#12 = .nop 0xB7#8 := by decide

theorem test_decode_csClr : decodeCommand 0b0001_00000000#12 = .csClr 0x00#8 ∧ decodeCommand 0b0001_10110111#12 = .csClr 0xB7#8 := by decide

theorem test_decode_csAdd : decodeCommand 0b0010_00000000#12 = .csAdd 0x00#8 ∧ decodeCommand 0b0010_10110111#12 = .csAdd 0xB7#8 := by decide

theorem test_decode_pbClr : decodeCommand 0b0011_00000000#12 = .pbClr 0x00#8 ∧ decodeCommand 0b0011_10110111#12 = .pbClr 0xB7#8 := by decide

theorem test_decode_pbPush : decodeCommand 0b0100_00000000#12 = .pbPush 0x00#8 ∧ decodeCommand 0b0100_10110111#12 = .pbPush 0xB7#8 := by decide

theorem test_decode_pkPush : decodeCommand 0b0101_00000000#12 = .pkPush 0x00#8 ∧ decodeCommand 0b0101_10110111#12 = .pkPush 0xB7#8 := by decide

theorem test_decode_pkFin : decodeCommand 0b0110_00000000#12 = .pkFin 0x00#8 ∧ decodeCommand 0b0110_10110111#12 = .pkFin 0xB7#8 := by decide

theorem test_decode_txSend : decodeCommand 0b0111_00000000#12 = .txSend 0x00#8 ∧ decodeCommand 0b0111_10110111#12 = .txSend 0xB7#8 := by decide

theorem test_decode_stClr : decodeCommand 0b1000_00000000#12 = .stClr 0x00#8 ∧ decodeCommand 0b1000_10110111#12 = .stClr 0xB7#8 := by decide

theorem test_decode_reserved9 : decodeCommand 0b1001_00000000#12 = .reserved9 0x00#8 ∧ decodeCommand 0b1001_10110111#12 = .reserved9 0xB7#8 := by decide

theorem test_decode_reservedA : decodeCommand 0b1010_00000000#12 = .reservedA 0x00#8 ∧ decodeCommand 0b1010_10110111#12 = .reservedA 0xB7#8 := by decide

theorem test_decode_reservedB : decodeCommand 0b1011_00000000#12 = .reservedB 0x00#8 ∧ decodeCommand 0b1011_10110111#12 = .reservedB 0xB7#8 := by decide

theorem test_decode_reservedC : decodeCommand 0b1100_00000000#12 = .reservedC 0x00#8 ∧ decodeCommand 0b1100_10110111#12 = .reservedC 0xB7#8 := by decide

theorem test_decode_reservedD : decodeCommand 0b1101_00000000#12 = .reservedD 0x00#8 ∧ decodeCommand 0b1101_10110111#12 = .reservedD 0xB7#8 := by decide

theorem test_decode_reservedE : decodeCommand 0b1110_00000000#12 = .reservedE 0x00#8 ∧ decodeCommand 0b1110_10110111#12 = .reservedE 0xB7#8 := by decide

theorem test_decode_reservedF : decodeCommand 0b1111_00000000#12 = .reservedF 0x00#8 ∧ decodeCommand 0b1111_10110111#12 = .reservedF 0xB7#8 := by decide

/-- The reset packet, byte by byte from R93. -/
theorem test_decode_pktMReset : decode (.packet [0x4D#8, 0xC3#8, 0xFF#8, 0xF5#8, 0x03#8, 0x00#8, 0x01#8, 0x00#8, 0xF8#8])
    = .ok .pktMReset := by decide

/-- The terminator, byte by byte from R94. -/
theorem test_decode_pktT : decode (.packet [0x54#8, 0xC3#8, 0xFF#8, 0xF5#8, 0x00#8, 0xF5#8]) = .ok .pktT := by decide

/-- The second fragment of vector V44: index 2, one text byte. -/
theorem test_decode_pktMFrag :
    decode (.packet [0x4D#8, 0xC3#8, 0xFF#8, 0xF5#8, 0x04#8, 0x00#8, 0x01#8, 0x21#8, 0x4D#8, 0x89#8])
      = .ok (.pktMFrag 2#4 [0x4D#8]) := by decide

/-- Vector V50: a packet of another type. -/
theorem test_decode_pkt : decode (.packet [0x00#8, 0xC3#8, 0xFF#8, 0xF5#8, 0x00#8, 0x49#8]) = .ok (.pkt 0x00#8 []) := by decide

/-- A packet is rejected by the first rule it breaks (R86, R88, R89, R90). -/
theorem test_decode_rejects :
    decode (.packet [0x54#8, 0xC3#8, 0xFF#8, 0xF5#8]) = .error .tooShort ∧
    decode (.packet [0x54#8, 0xC2#8, 0xFF#8, 0xF5#8, 0x00#8, 0xF5#8]) = .error .badSync0 ∧
    decode (.packet [0x54#8, 0xC3#8, 0xFE#8, 0xF5#8, 0x00#8, 0xF5#8]) = .error .badSync1 ∧
    decode (.packet [0x54#8, 0xC3#8, 0xFF#8, 0xF4#8, 0x00#8, 0xF5#8]) = .error .badSync2 ∧
    decode (.packet [0x54#8, 0xC3#8, 0xFF#8, 0xF5#8, 0x01#8, 0xF5#8]) = .error .badLength ∧
    decode (.packet [0x54#8, 0xC3#8, 0xFF#8, 0xF5#8, 0x00#8, 0xF4#8]) = .error .badChecksum := by decide

/-- The table's numbers for the two packet rows that have a match column. -/
theorem test_table_packets : decodeTableWord 72 0x4DC3FFF503000100F8 = some .pktMReset ∧
    decodeTableWord 48 0x54C3FFF500F5 = some .pktT := by decide

/-- A table word placed where the next step reads it is run by that step: `PK.PUSH 0x4D`, and the terminator. -/
theorem test_withFetchWord_command : step (State.reset.withFetchWord 12 0x54D) = exec (.pkPush 0x4D#8) State.reset := rfl

theorem test_withFetchWord_packet : step (State.reset.withFetchWord 48 0x54C3FFF500F5) = exec .pktT State.reset := rfl

/-! ## The textual form (R96) -/

theorem test_assemble_examples :
    assembleLine ['P', 'K', '.', 'P', 'U', 'S', 'H', ' ', '0', 'x', '4', 'D'] = .ok (some 0x54D#12) ∧
    assembleLine ['T', 'X', '.', 'S', 'E', 'N', 'D'] = .ok (some 0x700#12) := by decide

theorem test_assemble_comment_decimal_and_range :
    assembleLine ['C', 'S', '.', 'A', 'D', 'D', ' ', '2', '5', '5', ' ', ';', ' ', 'x'] = .ok (some 0x2FF#12) ∧
    assembleLine [';', ' ', 'x'] = .ok none ∧
    assembleLine ['C', 'S', '.', 'A', 'D', 'D', ' ', '2', '5', '6'] = .error .badOperand ∧
    assembleLine ['P', 'B', '.', 'C', 'L', 'R', ' ', '1'] = .error .unknownCommand := by decide

/-! ## Single commands, from the spec's vectors -/

/-- A state in IDLE with these `PB_LEN` and `SUM`. -/
def idleWith (len : Count) (sum : Byte) : State := { State.reset with pbLen := len, sum := sum }

/-- A state in a session, with these `PHASE`, `GT`, `TXCNT` and `PB_LEN`. -/
def inSession (p : Phase) (gt : Nat) (txcnt len : Count) : State :=
  { State.reset with phase := p, de := true, gt := gt, txcnt := txcnt, pbLen := len }

/-- A sample with nothing presented, no reset, and these channel inputs. -/
def channel (ready idle fault : Bool) (code : Byte) : Inputs := ⟨false, false, 0x000#12, ready, idle, fault, code⟩

/-- The state a command leads to, or the state before. -/
def after (i : Instr) (s : State) : State :=
  match exec i s with
  | .next t => t
  | .fault _ => s
  | .refused _ => s

/-- V1d, V1f: the carry is dropped; `neg8(0x80) = 0x80`. -/
theorem test_csAdd : (outputs (after (.csAdd 0x01#8) (idleWith 0 0xFF#8))).sum = 0x00#8 ∧
    (outputs (after (.csAdd 0x01#8) (idleWith 0 0x7F#8))).chk = 0x80#8 := by decide

/-- V1h, V1i. -/
theorem test_csClr : (outputs (after (.csClr 0x7E#8) (idleWith 0 0xA5#8))).sum = 0x00#8 ∧
    (outputs (after (.csClr 0x00#8) (idleWith 0 0xA5#8))).chk = 0x00#8 := by decide

/-- V1j. -/
theorem test_nop : (outputs (after (.nop 0x00#8) (idleWith 0 0x08#8))).chk = 0xF8#8 := by decide

/-- V2. -/
theorem test_neg8 : [neg8 0x00#8, neg8 0x01#8, neg8 0x08#8, neg8 0x0B#8, neg8 0x7F#8, neg8 0x80#8, neg8 0x81#8, neg8 0xFF#8]
    = [0x00#8, 0xFF#8, 0xF8#8, 0xF5#8, 0x81#8, 0x80#8, 0x7F#8, 0x01#8] := by decide

/-- V10a, V10i: `PB.PUSH` does not touch `SUM`, and fills the last free place without `F_OVF`. -/
theorem test_pbPush : after (.pbPush 0x54#8) (idleWith 0 0x00#8) = { idleWith 1 0x00#8 with pb := [(0, 0x54#8)] } ∧
    after (.pbPush 0x11#8) (idleWith 260 0x22#8) = { idleWith 261 0x22#8 with pb := [(260, 0x11#8)] } := by decide

/-- V10b. -/
theorem test_pkPush : after (.pkPush 0xC3#8) { idleWith 1 0x4D#8 with pb := [(0, 0x4D#8)] }
    = { idleWith 2 0x10#8 with pb := [(0, 0x4D#8), (1, 0xC3#8)] } := by decide

/-- V11, tick 1: a push into the full buffer is dropped whole, `SUM` included. -/
theorem test_pkPush_full : after (.pkPush 0xFF#8) (idleWith 261 0x8A#8) = { idleWith 261 0x8A#8 with fOvf := true } := by decide

/-- V10c, V10f. -/
theorem test_pkFin : after (.pkFin 0x00#8) (idleWith 8 0x08#8) = { idleWith 9 0x00#8 with pb := [(8, 0xF8#8)] } ∧
    after (.pkFin 0xFF#8) (idleWith 0 0x3C#8) = { idleWith 1 0x00#8 with pb := [(0, 0xC4#8)] } := by decide

/-- V10g. -/
theorem test_pbClr : after (.pbClr 0x00#8) (idleWith 9 0x22#8) = idleWith 0 0x22#8 := by decide

/-- Program P3, its packet 2: `PB.CLR` after a session empties the buffer and leaves `TXCNT` (R130), so `TXCNT ≤ PB_LEN` does not
hold in IDLE (log entry 21). -/
theorem test_pbClr_keeps_txcnt : after (.pbClr 0x00#8) { idleWith 21 0x00#8 with txcnt := 21, done := true }
    = { idleWith 0 0x00#8 with txcnt := 21, done := true } := by decide

/-- R160: after `TX.SEND` the direction is transmit, nothing has been taken, and the old result is dismissed. -/
theorem test_txSend :
    (after (.txSend 0x00#8) { idleWith 1 0x00#8 with done := true, err := true, cause := .flushFault, txcnt := 1 }).err = false ∧
    (after (.txSend 0x00#8) (idleWith 1 0x00#8)).phase = .pre := by decide

/-- V37. -/
theorem test_stClr :
    after (.stClr 0x00#8)
      { idleWith 6 0x00#8 with done := true, err := true, cause := .writeFault, info := 0x5A#8, txcnt := 2, fOvf := true } = { idleWith 6 0x00#8 with txcnt := 2 } := by decide

/-- R83: codes 0x9 and 0xF set `F_ILL`. -/
theorem test_reserved : (after (.reserved9 0xAB#8) State.reset).fIll = true ∧ (after (.reservedF 0x00#8) State.reset).fIll = true := by
  decide

/-- V23, ticks 2 to 8: in a session a command is not accepted and nothing is remembered. -/
theorem test_not_accepted : after (.reserved9 0xAB#8) (inSession .write 0 0 1) = inSession .write 0 0 1 ∧
    after (.pbPush 0xEE#8) (inSession .post 1 1 1) = inSession .post 1 1 1 := by decide

/-- R94, R97: the terminator form leaves the terminator packet in the buffer, and the session started. -/
theorem test_pktT : validBytes (after .pktT State.reset) = [0x54#8, 0xC3#8, 0xFF#8, 0xF5#8, 0x00#8, 0xF5#8] ∧
    (after .pktT State.reset).phase = .pre := by decide

/-- R93, R97. -/
theorem test_pktMReset : validBytes (after .pktMReset State.reset)
    = [0x4D#8, 0xC3#8, 0xFF#8, 0xF5#8, 0x03#8, 0x00#8, 0x01#8, 0x00#8, 0xF8#8] := by decide

/-- V41. -/
theorem test_pktMFrag : validBytes (after (.pktMFrag 1#4 [0x41#8]) State.reset)
    = [0x4D#8, 0xC3#8, 0xFF#8, 0xF5#8, 0x04#8, 0x00#8, 0x01#8, 0x11#8, 0x41#8, 0xA5#8] := by decide

/-- V10d: a type whose checksum is zero. -/
theorem test_pkt : validBytes (after (.pkt 0x49#8 []) State.reset) = [0x49#8, 0xC3#8, 0xFF#8, 0xF5#8, 0x00#8, 0x00#8] := by decide

/-! ## Single ticks of a session, from the spec's vectors -/

/-- V20, ticks 2 and 3: the PRE guard ends at `GT = 1`; the byte on offer is taken. -/
theorem test_pre_and_transfer : preTick (inSession .pre 1 0 1) = inSession .write 0 0 1 ∧
    writeTick ⟨1, 1, 0⟩ (channel true true false 0x00#8) { inSession .write 0 0 1 with pb := [(0, 0x55#8)] }
      = .next { inSession .write 0 1 1 with pb := [(0, 0x55#8)], taken := [0x55#8] } := ⟨rfl, rfl⟩

/-- V20, ticks 4 and 5: the hand-over, and the drained channel. -/
theorem test_handover_and_drain :
    writeTick ⟨1, 1, 0⟩ (channel true true false 0x00#8) (inSession .write 0 1 1) = .next (inSession .flush 0 1 1) ∧
    flushTick ⟨1, 1, 0⟩ (channel true true false 0x00#8) (inSession .flush 0 1 1) = inSession .post 1 1 1 := ⟨rfl, rfl⟩

/-- V20, tick 6. -/
theorem test_post : postTick (inSession .post 1 1 1) = { idleWith 1 0x00#8 with txcnt := 1, done := true } := by decide

/-- V30, tick 6: the fault comes before the transfer, and `DE` falls at the same tick. -/
theorem test_write_fault : writeTick ⟨2, 2, 0⟩ (channel true false true 0x5A#8) (inSession .write 0 2 6)
    = .next { idleWith 6 0x00#8 with txcnt := 2, done := true, err := true, cause := .writeFault, info := 0x5A#8 } := rfl

/-- V31, tick 4: at the hand-over tick the phase is still WRITE. -/
theorem test_write_fault_at_handover : writeTick ⟨1, 1, 0⟩ (channel false false true 0x01#8) (inSession .write 0 1 1)
    = .next { idleWith 1 0x00#8 with txcnt := 1, done := true, err := true, cause := .writeFault, info := 0x01#8 } := rfl

/-- V32, tick 7: the fault comes before the drain. -/
theorem test_flush_fault : flushTick ⟨2, 2, 0⟩ (channel false true true 0x07#8) (inSession .flush 0 1 1)
    = { idleWith 1 0x00#8 with txcnt := 1, done := true, err := true, cause := .flushFault, info := 0x07#8 } := by decide

/-- V33, tick 8, and V34: the bound expires, but a drain at that tick wins. -/
theorem test_flush_timeout : flushTick ⟨2, 2, 3⟩ (channel false false false 0x00#8) (inSession .flush 1 1 1)
      = { idleWith 1 0x00#8 with txcnt := 1, done := true, err := true, cause := .flushTimeout } ∧
    flushTick ⟨2, 2, 3⟩ (channel false true false 0x00#8) (inSession .flush 1 1 1) = inSession .post 2 1 1 := by decide

/-- V38: reset in mid-WRITE, with a command and `ch_ready` at the same tick; the bytes of `PB` stay. -/
theorem test_reset_in_write : tick ⟨true, true, 0x700#12, true, false, false, 0x00#8⟩
    { inSession .write 0 2 6 with pb := [(0, 0x54#8)], sum := 0x22#8, fIll := true }
      = .next { State.reset with pb := [(0, 0x54#8)] } := rfl

/-! ## The host side, from the spec's vectors -/

/-- V40, V41, V44 (its second packet), V47b. -/
theorem test_encodeMessage :
    encodeMessage [] = .ok [[0x54#8, 0xC3#8, 0xFF#8, 0xF5#8, 0x00#8, 0xF5#8]] ∧
    encodeMessage [0x41#8] = .ok [[0x4D#8, 0xC3#8, 0xFF#8, 0xF5#8, 0x04#8, 0x00#8, 0x01#8, 0x11#8, 0x41#8, 0xA5#8],
      [0x54#8, 0xC3#8, 0xFF#8, 0xF5#8, 0x00#8, 0xF5#8]] ∧
    fragmentPacket [0x41#8, 0x42#8, 0x43#8, 0x44#8, 0x45#8, 0x46#8, 0x47#8, 0x48#8, 0x49#8, 0x4A#8, 0x4B#8, 0x4C#8, 0x4D#8] 1
      = [0x4D#8, 0xC3#8, 0xFF#8, 0xF5#8, 0x04#8, 0x00#8, 0x01#8, 0x21#8, 0x4D#8, 0x89#8] ∧
    fragmentPacket (counterText 17) 0
      = [0x4D#8, 0xC3#8, 0xFF#8, 0xF5#8, 0x07#8, 0x00#8, 0x01#8, 0x11#8, 0x5E#8, 0x59#8, 0x31#8, 0x37#8, 0xC4#8] := by decide

/-- X1, and program P3's third packet as command words. -/
theorem test_reset_packet_and_words :
    encodeReset = [0x4D#8, 0xC3#8, 0xFF#8, 0xF5#8, 0x03#8, 0x00#8, 0x01#8, 0x00#8, 0xF8#8] ∧
    sendTerminatorWords = [0x300#12, 0x100#12, 0x554#12, 0x5C3#12, 0x5FF#12, 0x5F5#12, 0x500#12, 0x600#12, 0x700#12] := by decide

/-- A host with one operation in hand, reading the status next, and `later` after it. -/
def reading (later : List Operation) : HostProgram :=
  ⟨[.wait, .readStatus, .command 0x300#12] :: later, []⟩

/-- A host that sends the same buffer again after the first failure, and stops after the second (R261). -/
def retryOnce : HostPolicy := fun events _ _ => if events.length = 1 then [sessionOps] else []

/-- The state after tick 15 of program P2: the session failed after three bytes with code E1. -/
def failedP2 : State :=
  { idleWith 6 0x00#8 with txcnt := 3, done := true, err := true, cause := .writeFault, info := 0xE1#8 }

/-- Program P2 at tick 16: the host has read `err = 1`, presents nothing, and goes on with the bare `TX.SEND` of the second
session; after a second failure this host stops. -/
theorem test_readStatus_failed :
    hostPort (reading []) failedP2 = (false, 0x000#12) ∧
    hostNext retryOnce (reading []) (commandSample 0x000#12) failedP2 = ⟨[sessionOps], [.failed ⟨1, 0xE1#8, 3⟩]⟩ ∧
    (hostNext retryOnce { reading [sessionOps] with events := [.failed ⟨1, 0xE1#8, 3⟩] } (commandSample 0x000#12)
      failedP2).operations = [] ∧
    (hostNext referencePolicy (reading [sessionOps]) { commandSample 0x000#12 with rst := true } failedP2).operations
      = [sessionOps] := by decide

/-- R97, program P3 at tick 52: after a session that ended normally the host presents the next command at once; one that reset
cut off (R281) ends the operation in the reference policy (log entry 28). -/
theorem test_readStatus_sent_and_cut_off :
    hostPort (reading []) { State.reset with done := true } = (true, 0x300#12) ∧
    hostPort (reading []) State.reset = (false, 0x000#12) ∧
    (hostNext referencePolicy (reading [sessionOps]) (commandSample 0x000#12) State.reset).operations = [sessionOps] := by decide

/-- P3's last sentence: with `err = 1` after its second packet the terminator is not sent; with `done = 1` and `err = 0` it is. An
operation given after it is sent. -/
theorem test_message_stops_after_failure :
    endOperation { failedP2 with pkts := (packetQueue [[0x4D#8], terminatorPacket]).tail ++ packetQueue [encodeReset] }
      = { failedP2 with pkts := packetQueue [encodeReset] } ∧
    (takePacket (endOperation { State.reset with done := true, pkts := [⟨terminatorPacket, true⟩] })).isSome = true := by decide

/-- V40 as an operation of the host: `TRANSMIT` of the terminator, by `LOAD`. -/
theorem test_transmitMessageOps : transmitMessageOps [] = .ok ([0x300#12, 0x454#12, 0x4C3#12, 0x4FF#12, 0x4F5#12, 0x400#12,
    0x4F5#12, 0x700#12].map .command ++ [.wait, .readStatus]) := by decide

/-! ## The reset state -/

theorem test_reset_memory_wf : State.reset.pb.wf = true := by decide

theorem test_reset_inv : Inv Config.params State.reset := by
  constructor <;> simp [State.reset, Memory.wf, Memory.wfFrom]

theorem test_reset_outputs : (outputs State.reset).cmdReady = true ∧ (outputs State.reset).busy = false ∧
    (outputs State.reset).de = false ∧ (outputs State.reset).chValid = false := by decide

/-! ## Witnesses: the hypotheses of each statement can be met -/

/-- A sample that presents the word. -/
def presents (w : CmdWord) : Inputs := commandSample w

/-- A sample with reset. -/
def resetSample : Inputs := ⟨true, false, 0x000#12, false, false, false, 0x00#8⟩

/-- A channel that is ready, drained and without fault. -/
def good : Inputs := channel true true false 0x00#8

/-- A state that satisfies the invariants in WRITE with one byte to go. -/
def writing : State := { inSession .write 0 0 1 with pb := [(0, 0x55#8)] }

theorem wit_CommandTableDecodes :
    (0x000#12 &&& 0xF00#12 = 0x000#12 ∧ 0x0FF#12 &&& 0xF00#12 = 0x000#12) ∧ (0x100#12 &&& 0xF00#12 = 0x100#12 ∧ 0x1FF#12 &&& 0xF00#12 = 0x100#12) ∧
    (0x200#12 &&& 0xF00#12 = 0x200#12 ∧ 0x2FF#12 &&& 0xF00#12 = 0x200#12) ∧ (0x300#12 &&& 0xF00#12 = 0x300#12 ∧ 0x3FF#12 &&& 0xF00#12 = 0x300#12) ∧
    (0x400#12 &&& 0xF00#12 = 0x400#12 ∧ 0x4FF#12 &&& 0xF00#12 = 0x400#12) ∧ (0x500#12 &&& 0xF00#12 = 0x500#12 ∧ 0x5FF#12 &&& 0xF00#12 = 0x500#12) ∧
    (0x600#12 &&& 0xF00#12 = 0x600#12 ∧ 0x6FF#12 &&& 0xF00#12 = 0x600#12) ∧ (0x700#12 &&& 0xF00#12 = 0x700#12 ∧ 0x7FF#12 &&& 0xF00#12 = 0x700#12) ∧
    (0x800#12 &&& 0xF00#12 = 0x800#12 ∧ 0x8FF#12 &&& 0xF00#12 = 0x800#12) ∧ (0x900#12 &&& 0xF00#12 = 0x900#12 ∧ 0x9FF#12 &&& 0xF00#12 = 0x900#12) ∧
    (0xA00#12 &&& 0xF00#12 = 0xA00#12 ∧ 0xAFF#12 &&& 0xF00#12 = 0xA00#12) ∧ (0xB00#12 &&& 0xF00#12 = 0xB00#12 ∧ 0xBFF#12 &&& 0xF00#12 = 0xB00#12) ∧
    (0xC00#12 &&& 0xF00#12 = 0xC00#12 ∧ 0xCFF#12 &&& 0xF00#12 = 0xC00#12) ∧ (0xD00#12 &&& 0xF00#12 = 0xD00#12 ∧ 0xDFF#12 &&& 0xF00#12 = 0xD00#12) ∧
    (0xE00#12 &&& 0xF00#12 = 0xE00#12 ∧ 0xEFF#12 &&& 0xF00#12 = 0xE00#12) ∧ (0xF00#12 &&& 0xF00#12 = 0xF00#12 ∧ 0xFFF#12 &&& 0xF00#12 = 0xF00#12) := by decide

theorem wit_DecodeOfEncode :
    wellFormed (.nop 0x00#8) = true ∧ wellFormed (.reservedF 0xFF#8) = true ∧ wellFormed (.pkt 0xFF#8 []) = true ∧
    wellFormed (.pkt 0x4D#8 (copies 255 0xFF#8)) = true ∧ wellFormed (.pktMFrag 1#4 [0x00#8]) = true ∧
    wellFormed (.pktMFrag 15#4 (copies 12 0xFF#8)) = true ∧ wellFormed .pktMReset = true ∧ wellFormed .pktT = true := by
  simp [wellFormed, bodyFits, hasOwnForm, isFragBody, fragTextOk, fragIndexOk]
  decide

theorem wit_EncodeOfDecode : decode (.command 0xFFF#12) = .ok (.reservedF 0xFF#8) ∧
    decode (.packet [0x54#8, 0xC3#8, 0xFF#8, 0xF5#8, 0x00#8, 0xF5#8]) = .ok .pktT := by decide

/-- The two cases of every command's statement: in IDLE, and in each phase of a session. -/
theorem wit_idle_and_busy : State.reset.phase = .idle ∧ (inSession .pre 1 0 1).phase ≠ .idle ∧
    (inSession .write 0 0 1).phase ≠ .idle ∧ (inSession .flush 0 1 1).phase ≠ .idle ∧ (inSession .post 1 1 1).phase ≠ .idle := by
  decide

theorem wit_CsClrClearsSum : State.reset.phase = .idle ∧ (inSession .pre 1 0 1).phase ≠ .idle := by decide

theorem wit_CsAddAddsModulo256 : (idleWith 0 0xFF#8).phase = .idle ∧ (inSession .pre 1 0 1).phase ≠ .idle := by decide

theorem wit_AccumulatorIsDocumentSum : State.reset.phase = .idle ∧ [0x01#8, 0xFF#8].Perm [0xFF#8, 0x01#8] :=
  ⟨rfl, List.Perm.swap ..⟩

theorem wit_ChecksumInvariantAndUniqueness : State.reset.phase = .idle ∧
    (∃ t, execAll (.csClr 0x00#8 :: [0x54#8, 0xC3#8].map .csAdd) State.reset = .next t) ∧
    docSum ([0x54#8, 0xC3#8] ++ [0xE9#8]) % 256 = 0 := ⟨rfl, ⟨_, rfl⟩, by decide⟩

theorem wit_SumHasFiveWriters : ∃ t, tick (presents 0x201#12) State.reset = .next t ∧ t.sum ≠ State.reset.sum :=
  ⟨_, rfl, by decide⟩

theorem wit_PbClrEmptiesBuffer : (idleWith 261 0x00#8).phase = .idle ∧ (inSession .post 1 1 1).phase ≠ .idle := by decide

theorem wit_PbPushAppends :
    ((idleWith 0 0x00#8).phase = .idle ∧ (idleWith 0 0x00#8).pbLen.toNat < 261) ∧
    ((idleWith 260 0x00#8).phase = .idle ∧ (idleWith 260 0x00#8).pbLen.toNat < 261 ∧ 259 ≠ (idleWith 260 0x00#8).pbLen.toNat) ∧
    ((idleWith 261 0x00#8).phase = .idle ∧ ¬ (idleWith 261 0x00#8).pbLen.toNat < 261) ∧
    (inSession .pre 1 0 1).phase ≠ .idle := by decide

theorem wit_PkPushAppendsAndAdds :
    ((idleWith 260 0xFF#8).phase = .idle ∧ (idleWith 260 0xFF#8).pbLen.toNat < 261) ∧
    ((idleWith 261 0xFF#8).phase = .idle ∧ ¬ (idleWith 261 0xFF#8).pbLen.toNat < 261) ∧
    (inSession .write 0 0 1).phase ≠ .idle := by decide

theorem wit_PkFinAppendsChecksum :
    ((idleWith 260 0x3C#8).phase = .idle ∧ (idleWith 260 0x3C#8).pbLen.toNat < 261) ∧
    ((idleWith 261 0x3C#8).phase = .idle ∧ ¬ (idleWith 261 0x3C#8).pbLen.toNat < 261) ∧
    (inSession .flush 0 1 1).phase ≠ .idle := by decide

theorem wit_OverflowDropsPushWhole :
    ((idleWith 261 0x8A#8).phase = .idle ∧ (idleWith 261 0x8A#8).pbLen.toNat = 261) ∧
    (∃ t, { idleWith 261 0x8A#8 with fOvf := true }.fOvf = true ∧
      tick (presents 0x800#12) { idleWith 261 0x8A#8 with fOvf := true } = .next t ∧ t.fOvf = false) ∧
    ({ idleWith 261 0x8A#8 with fOvf := true }.phase = .idle ∧ { idleWith 261 0x8A#8 with fOvf := true }.fOvf = true) :=
  ⟨by decide, ⟨_, rfl, rfl, rfl⟩, by decide⟩

theorem wit_PushFrame :
    (∃ t, exec (.pkPush 0x01#8) (idleWith 260 0x00#8) = .next t ∧ 259 ≠ storeIndex (idleWith 260 0x00#8)) ∧
    (∃ t, exec (.pbPush 0x01#8) (idleWith 261 0x00#8) = .next t ∧ ¬ (idleWith 261 0x00#8).pbLen.toNat < 261) ∧
    (∃ t, exec (.pkFin 0x01#8) { inSession .pre 1 0 1 with fOvf := true } = .next t ∧ (inSession .pre 1 0 1).phase ≠ .idle ∧
      { inSession .pre 1 0 1 with fOvf := true }.fOvf = true) :=
  ⟨⟨_, rfl, by decide⟩, ⟨_, rfl, by decide⟩, ⟨_, rfl, by decide, rfl⟩⟩

theorem wit_NonStoringCommandFrame :
    (∃ t, exec (.nop 0x00#8) { State.reset with fIll := true } = .next t) ∧ (∃ t, exec (.csAdd 0x01#8) State.reset = .next t) ∧
    (∃ t, exec (.pbClr 0x00#8) State.reset = .next t) ∧ (∃ t, exec (.txSend 0x00#8) State.reset = .next t) ∧
    (∃ t, exec (.stClr 0x00#8) State.reset = .next t) ∧ (∃ t, exec (.reservedF 0x00#8) State.reset = .next t) :=
  ⟨⟨_, rfl⟩, ⟨_, rfl⟩, ⟨_, rfl⟩, ⟨_, rfl⟩, ⟨_, rfl⟩, ⟨_, rfl⟩⟩

theorem wit_BufferIsAppendOnly : (idleWith 260 0x00#8).pbLen.toNat ≤ 261 ∧ 259 < (idleWith 260 0x00#8).pbLen.toNat ∧
    ∃ t, tick (presents 0x411#12) (idleWith 260 0x00#8) = .next t := ⟨by decide, by decide, _, rfl⟩

theorem wit_EncodePacketBuildsThePacket : State.reset.phase = .idle ∧ ([] : List Byte).length ≤ 255 ∧
    (copies 255 0xFF#8).length ≤ 255 := by simp [State.reset]

theorem wit_LoadFillsTheBuffer : State.reset.phase = .idle ∧ ([] : List Byte).length ≤ 261 ∧
    (copies 261 0x00#8).length ≤ 261 := by simp [State.reset]

theorem wit_PacketFormSendsItsPacket :
    (State.reset.phase = .idle ∧ (copies 255 0x00#8).length ≤ 255) ∧ (inSession .pre 1 0 1).phase ≠ .idle ∧
    255 < (copies 256 0x00#8).length ∧ (copies 252 0x00#8).length ≤ 252 ∧
    252 < (copies 253 0x00#8).length := by
  simp [State.reset, inSession]

theorem wit_PacketFormFrame : State.reset.phase = .idle ∧ (∃ u, exec (.pkt 0x49#8 [0x00#8]) State.reset = .next u) ∧
    (∃ u, exec (.pktMFrag 15#4 [0x41#8]) State.reset = .next u) ∧ (∃ u, exec .pktMReset State.reset = .next u) ∧
    (∃ u, exec .pktT State.reset = .next u) := ⟨rfl, ⟨_, rfl⟩, ⟨_, rfl⟩, ⟨_, rfl⟩, ⟨_, rfl⟩⟩

theorem wit_PacketFormRefinesItsCommands : State.reset.phase = .idle ∧ State.reset.pkts = [] ∧ [0x41#8].length ≤ 255 ∧
    { State.reset with inq := (sendPacketWords 0x49#8 [0x41#8]).map commandSample ++ [good] }.inq
      = (sendPacketWords 0x49#8 [0x41#8]).map commandSample ++ [good] := by decide

theorem wit_TxSendStartsSession : State.reset.phase = .idle ∧ (inSession .post 1 1 1).phase ≠ .idle := by decide

theorem wit_PreGuardCountsExactly :
    good.rst = false ∧ (inSession .pre 1 0 1).phase = .pre ∧ (inSession .pre 1 0 1).gt = 1 ∧ (inSession .pre 2 0 1).gt ≠ 1 ∧
    { inSession .pre 2 0 1 with inq := [good, good] }.gt = 2 ∧ 2 ≤ { inSession .pre 2 0 1 with inq := [good, good] }.inq.length ∧
    (∀ x ∈ { inSession .pre 2 0 1 with inq := [good, good] }.inq.take 2, x.rst = false) := by decide

theorem wit_WriteTickCases :
    (inSession .write 0 260 261).phase = .write ∧ good.rst = false ∧
    (inSession .write 0 260 261).txcnt.toNat < (inSession .write 0 260 261).pbLen.toNat ∧
    (inSession .write 0 260 261).pbLen.toNat ≤ 261 ∧ good.chFault = false ∧ good.chReady = true ∧
    (inSession .write 0 261 261).txcnt = (inSession .write 0 261 261).pbLen ∧
    (channel true true true 0xFF#8).chFault = true ∧
    (inSession .write 0 260 261).txcnt ≠ (inSession .write 0 260 261).pbLen ∧ (channel false true false 0x00#8).chReady = false := by
  decide

theorem wit_ByteTransferHappensExactly :
    (∃ t, tick good writing = .next t) ∧ writing.phase = .write ∧ writing.txcnt.toNat < writing.pbLen.toNat ∧
    (∃ t, tick (channel false true false 0x00#8) writing = .next t) ∧ (∃ t, tick (channel true true true 0x00#8) writing = .next t) :=
  ⟨⟨_, rfl⟩, rfl, by decide, ⟨_, rfl⟩, ⟨_, rfl⟩⟩

/-- WRITE with the byte 0x55 on offer meets the invariants; it is kept on offer at one tick and taken at the next. -/
theorem wit_OfferStandsUntilTaken : Inv Config.params writing ∧
    (∃ t, tick (channel false true false 0x00#8) writing = .next t ∧ chValid writing = true) ∧
    (∃ t, tick good writing = .next t ∧ t.taken ≠ writing.taken) := by
  refine ⟨?_, ⟨_, rfl, rfl⟩, ⟨_, rfl, by simp [writing, inSession, State.reset]⟩⟩
  constructor <;> simp [writing, inSession, State.reset, Memory.wf, Memory.wfFrom, Memory.read, pbCap]

theorem wit_FlushTickCases :
    (inSession .flush 1 1 1).phase = .flush ∧ good.rst = false ∧ (channel false true true 0x07#8).chFault = true ∧
    good.chFault = false ∧ good.chIdle = true ∧ (channel true false false 0x00#8).chIdle = false ∧
    (⟨1, 1, 1⟩ : Params).flushTmo ≠ 0 ∧ (inSession .flush 1 1 1).gt = 1 ∧ (inSession .flush 2 1 1).gt ≠ 1 ∧
    (⟨1, 1, 0⟩ : Params).flushTmo = 0 := by decide

theorem wit_FlushTimeoutAfterExactlyN :
    ((inSession .write 0 1 1).phase = .write ∧ good.chFault = false ∧ (inSession .write 0 1 1).txcnt = (inSession .write 0 1 1).pbLen ∧
      [channel false false false 0x00#8].length = (⟨1, 1, 1⟩ : Params).flushTmo ∧ 1 ≤ (⟨1, 1, 1⟩ : Params).flushTmo ∧
      (∀ y ∈ [channel false false false 0x00#8], undrained y = true)) ∧
    ((⟨1, 1, 0⟩ : Params).flushTmo = 0 ∧ (inSession .flush 0 1 1).cause ≠ .flushTimeout) ∧
    (∃ t, tick good { State.reset with done := true, err := true, cause := .flushTimeout } = .next t ∧ t.cause = .flushTimeout) :=
  ⟨by decide, by decide, _, rfl, rfl⟩

theorem wit_PostGuardCountsExactly :
    good.rst = false ∧ (inSession .post 1 1 1).phase = .post ∧ (inSession .post 1 1 1).gt = 1 ∧ (inSession .post 2 1 1).gt ≠ 1 ∧
    { inSession .post 2 1 1 with inq := [good, good] }.gt = 2 ∧ 2 ≤ { inSession .post 2 1 1 with inq := [good, good] }.inq.length ∧
    (∀ x ∈ { inSession .post 2 1 1 with inq := [good, good] }.inq.take 2, x.rst = false) := by decide

theorem wit_PhasesReadAndLeadWhereTheTableSays :
    (good.rst = (channel true false false 0x00#8).rst ∧ good.cmdValid = (channel true false false 0x00#8).cmdValid ∧
      good.cmd = (channel true false false 0x00#8).cmd ∧ good.chFault = (channel true false false 0x00#8).chFault ∧
      good.chFcode = (channel true false false 0x00#8).chFcode ∧ good.chReady = (channel true false false 0x00#8).chReady ∧
      good.chIdle = (channel false true false 0x00#8).chIdle) ∧
    (resetSample.rst = true ∧ resetSample.rst = { resetSample with chReady := true }.rst) ∧
    (∃ t, tick (presents 0x700#12) State.reset = .next t) ∧ (∃ t, tick good (inSession .pre 1 0 1) = .next t) ∧
    (∃ t, tick good (inSession .write 0 1 1) = .next t) ∧ (∃ t, tick good (inSession .flush 0 1 1) = .next t) ∧
    (∃ t, tick good (inSession .post 1 1 1) = .next t) :=
  ⟨by decide, by decide, ⟨_, rfl⟩, ⟨_, rfl⟩, ⟨_, rfl⟩, ⟨_, rfl⟩, ⟨_, rfl⟩⟩

theorem wit_StuckWhileChannelWithholds :
    ({ writing with inq := [channel false true false 0x00#8] }.phase = .write ∧ writing.txcnt ≠ writing.pbLen ∧
      1 ≤ { writing with inq := [channel false true false 0x00#8] }.inq.length ∧
      (∀ x ∈ { writing with inq := [channel false true false 0x00#8] }.inq.take 1, stalling x = true)) ∧
    ((inSession .flush 0 1 1).phase = .flush ∧ (⟨1, 1, 0⟩ : Params).flushTmo = 0 ∧
      (∀ x ∈ [channel true false false 0x00#8], undrained x = true)) ∧ good.rst = false := by decide

/-! ### Whole sessions, whatever `PRE_TICKS` and `POST_TICKS` are: an empty buffer, and a queue of `good` samples -/

/-- The state before the session: `PRE_TICKS` good samples, then `q`. -/
def ready (q : List Inputs) : State := { State.reset with inq := List.replicate Config.params.preTicks good ++ q }

/-- The state the command `TX.SEND` leads to. -/
def started (q : List Inputs) : State := startSession Config.params (ready q)

theorem ready_starts (q : List Inputs) : exec (.txSend 0x00#8) (ready q) = .next (started q) := rfl

theorem ready_inv (q : List Inputs) : Inv Config.params (ready q) := by
  constructor <;> simp [ready, State.reset, Memory.wf, Memory.wfFrom]

theorem wit_PreGuardCountsExactly_session : (ready []).phase = .idle ∧ exec (.txSend 0x00#8) (ready []) = .next (started []) ∧
    Config.params.preTicks ≤ (ready []).inq.length ∧ (∀ x ∈ (ready []).inq.take Config.params.preTicks, x.rst = false) := by
  refine ⟨rfl, rfl, by simp [ready], fun x hx => ?_⟩
  have h := List.mem_of_mem_take hx
  simp only [ready, List.append_nil, List.mem_replicate] at h
  rw [h.2]; rfl

theorem wit_PostGuardCountsExactly_session :
    good.rst = false ∧ good.chFault = false ∧ good.chIdle = true ∧
    { inSession .flush 0 1 1 with inq := List.replicate Config.params.postTicks good }.phase = .flush ∧
    Config.params.postTicks ≤ { inSession .flush 0 1 1 with inq := List.replicate Config.params.postTicks good }.inq.length ∧
    (∀ y ∈ (List.replicate Config.params.postTicks good).take Config.params.postTicks, y.rst = false) := by
  refine ⟨rfl, rfl, rfl, rfl, by simp, fun y hy => ?_⟩
  rw [(List.mem_replicate.mp (List.mem_of_mem_take hy)).2]; rfl

/-- The state when PRE is over. -/
def written (q : List Inputs) : State := { started q with phase := .write, gt := 0, inq := q }

theorem started_writes (q : List Inputs) : run Config.params.preTicks (started q) = .next (written q) ∧
    staysBusy Config.params.preTicks (started q) := by
  obtain ⟨n, hn⟩ : ∃ n, Config.params.preTicks = n + 1 := ⟨_, (Nat.succ_pred_eq_of_pos Config.one_le_preTicks).symm⟩
  have h := run_pre_repeat (x := good) rfl n q (started q) rfl hn (by simp only [started, startSession, clearResult, ready, hn])
  rw [hn]
  exact h

/-- The state when the (empty) packet has been handed over. -/
def flushing (q : List Inputs) : State := { written q with phase := .flush, gt := Config.params.flushTmo, inq := q }

theorem started_flushes (q : List Inputs) : run (Config.params.preTicks + 1) (started (good :: q)) = .next (flushing q) ∧
    staysBusy (Config.params.preTicks + 1) (started (good :: q)) := by
  obtain ⟨h1, h2⟩ := started_writes (good :: q)
  refine ⟨by rw [run_add 1 h1]; rfl, staysBusy_add h2 h1 (staysBusy_one (by simp [written]))⟩

/-- The state when the channel has drained. -/
def guarding (q : List Inputs) : State := { flushing q with phase := .post, gt := Config.params.postTicks, inq := q }

theorem started_guards (q : List Inputs) :
    run (Config.params.preTicks + 1 + 1) (started (good :: good :: q)) = .next (guarding q) ∧
    staysBusy (Config.params.preTicks + 1 + 1) (started (good :: good :: q)) := by
  obtain ⟨h1, h2⟩ := started_flushes (good :: q)
  refine ⟨by rw [run_add 1 h1]; rfl, staysBusy_add h2 h1 (staysBusy_one (by simp [flushing]))⟩

/-- The queue of a whole normal session, after PRE. -/
def wholeQueue : List Inputs := good :: good :: List.replicate Config.params.postTicks good

theorem started_ends :
    run (Config.params.preTicks + 1 + 1 + Config.params.postTicks) (started wholeQueue)
      = .next { endSession (guarding (List.replicate Config.params.postTicks good)) with inq := [] } ∧
    staysBusy (Config.params.preTicks + 1 + 1 + Config.params.postTicks) (started wholeQueue) := by
  obtain ⟨h1, h2⟩ := started_guards (List.replicate Config.params.postTicks good)
  obtain ⟨n, hn⟩ : ∃ n, Config.params.postTicks = n + 1 := ⟨_, (Nat.succ_pred_eq_of_pos Config.one_le_postTicks).symm⟩
  obtain ⟨h3, h4⟩ := run_post_repeat (x := good) rfl n [] (guarding (List.replicate Config.params.postTicks good)) rfl hn
    (by simp only [guarding, hn, List.append_nil])
  rw [← hn] at h3 h4
  exact ⟨by rw [wholeQueue, run_add _ h1, h3], staysBusy_add h2 h1 h4⟩

theorem wit_SessionTransfersInOrder :
    Inv Config.params (ready wholeQueue) ∧ (ready wholeQueue).phase = .idle ∧
    exec (.txSend 0x00#8) (ready wholeQueue) = .next (started wholeQueue) ∧
    (∃ (n : Nat) (t : State), run n (started wholeQueue) = .next t ∧
      (∀ k u, k < n → run k (started wholeQueue) = .next u → u.phase ≠ .idle) ∧ t.phase = .flush) ∧
    (∃ (n : Nat) (t : State), run n (started wholeQueue) = .next t ∧
      (∀ k u, k < n → run k (started wholeQueue) = .next u → u.phase ≠ .idle) ∧
      t.phase = .idle ∧ t.done = true ∧ t.err = false) :=
  ⟨ready_inv _, rfl, ready_starts _, ⟨_, _, (started_flushes _).1, (started_flushes _).2, rfl⟩,
    ⟨_, _, started_ends.1, started_ends.2, rfl, rfl, rfl⟩⟩

/-- A write failure at the first WRITE tick. -/
theorem started_write_fault : run (Config.params.preTicks + 1) (started [channel true true true 0x5A#8])
      = .next { raiseFault .writeFault 0x5A#8 (written []) with inq := [] } ∧
    staysBusy (Config.params.preTicks + 1) (started [channel true true true 0x5A#8]) := by
  obtain ⟨h1, h2⟩ := started_writes [channel true true true 0x5A#8]
  refine ⟨by rw [run_add 1 h1]; rfl, staysBusy_add h2 h1 (staysBusy_one (by simp [written]))⟩

/-- A flush failure at the first FLUSH tick. -/
theorem started_flush_fault : run (Config.params.preTicks + 1 + 1) (started [good, channel true true true 0x07#8])
      = .next { raiseFault .flushFault 0x07#8 (flushing []) with inq := [] } ∧
    staysBusy (Config.params.preTicks + 1 + 1) (started [good, channel true true true 0x07#8]) := by
  obtain ⟨h1, h2⟩ := started_flushes [channel true true true 0x07#8]
  refine ⟨by rw [run_add 1 h1]; rfl, staysBusy_add h2 h1 (staysBusy_one (by simp [flushing]))⟩

/-- A reset at the first WRITE tick. -/
theorem started_reset : run (Config.params.preTicks + 1) (started [resetSample])
      = .next { resetRegisters (written []) with inq := [] } ∧
    staysBusy (Config.params.preTicks + 1) (started [resetSample]) := by
  obtain ⟨h1, h2⟩ := started_writes [resetSample]
  refine ⟨by rw [run_add 1 h1]; rfl, staysBusy_add h2 h1 (staysBusy_one (by simp [written]))⟩

theorem wit_SessionCallsAreTheDocuments :
    (∀ q, Inv Config.params (ready q) ∧ (ready q).phase = .idle ∧ exec (.txSend 0x00#8) (ready q) = .next (started q)) ∧
    (∃ (n : Nat) (t : State), run n (started wholeQueue) = .next t ∧ staysBusy n (started wholeQueue) ∧ t.phase = .idle ∧
      t.done = true ∧ t.err = false) ∧
    (∃ (q : List Inputs) (n : Nat) (t : State), run n (started q) = .next t ∧ staysBusy n (started q) ∧ t.phase = .idle ∧
      t.err = true ∧ t.cause = .writeFault) ∧
    (∃ (q : List Inputs) (n : Nat) (t : State), run n (started q) = .next t ∧ staysBusy n (started q) ∧ t.phase = .idle ∧
      t.err = true ∧ t.cause ≠ .writeFault) ∧
    (∃ (q : List Inputs) (n : Nat) (t : State), run n (started q) = .next t ∧ staysBusy n (started q) ∧ t.phase = .idle ∧
      t.done = false) :=
  ⟨fun q => ⟨ready_inv q, rfl, ready_starts q⟩, ⟨_, _, started_ends.1, started_ends.2, rfl, rfl, rfl⟩,
    ⟨_, _, _, started_write_fault.1, started_write_fault.2, rfl, rfl, rfl⟩,
    ⟨_, _, _, started_flush_fault.1, started_flush_fault.2, rfl, rfl, by simp⟩,
    ⟨_, _, _, started_reset.1, started_reset.2, rfl, rfl⟩⟩

theorem wit_ShortestSessionLength :
    Inv Config.params (ready wholeQueue) ∧ (ready wholeQueue).phase = .idle ∧
    exec (.txSend 0x00#8) (ready wholeQueue) = .next (started wholeQueue) ∧
    Config.params.preTicks + (ready wholeQueue).pbLen.toNat + 2 + Config.params.postTicks ≤ (ready wholeQueue).inq.length ∧
    (∀ x ∈ (ready wholeQueue).inq.take (Config.params.preTicks + (ready wholeQueue).pbLen.toNat + 2 + Config.params.postTicks),
      cooperative x = true) := by
  refine ⟨ready_inv _, rfl, ready_starts _, ?_, fun x hx => ?_⟩
  · simp [ready, wholeQueue, State.reset]; omega
  · have h := List.mem_of_mem_take hx
    simp only [ready, wholeQueue, List.mem_append, List.mem_cons, List.mem_replicate] at h
    rcases h with h | h | h | h
    · rw [h.2]; rfl
    · rw [h]; rfl
    · rw [h]; rfl
    · rw [h.2]; rfl

theorem wit_SessionDependsOnPacketAndInputsOnly :
    (idleWith 0 0x22#8).phase = .idle ∧ State.reset.phase = .idle ∧ SamePacket (idleWith 0 0x22#8) State.reset ∧
    (idleWith 0 0x22#8).inq = State.reset.inq ∧ (idleWith 0 0x22#8).draws = State.reset.draws ∧
    (∃ s0, exec (.txSend 0x00#8) (idleWith 0 0x22#8) = .next s0) ∧ (∃ t0, exec (.txSend 0xFF#8) State.reset = .next t0) :=
  ⟨rfl, rfl, ⟨rfl, fun _ _ => rfl⟩, rfl, rfl, ⟨_, rfl⟩, ⟨_, rfl⟩⟩

theorem wit_DirectionSetAndClearedOnlyByTheSession :
    (∃ t, tick (presents 0x700#12) State.reset = .next t ∧ State.reset.de = false ∧ t.de = true) ∧
    (∃ t, tick good (inSession .post 1 1 1) = .next t ∧ (inSession .post 1 1 1).de = true ∧ t.de = false) ∧
    (∃ t, tick (channel true true true 0x01#8) writing = .next t ∧ writing.de = true ∧ t.de = false) :=
  ⟨⟨_, rfl, rfl, rfl⟩, ⟨_, rfl, rfl, rfl⟩, ⟨_, rfl, rfl, rfl⟩⟩

theorem wit_SessionFaultsAreExactlyThese :
    (∃ t, writing.err = false ∧ tick (channel true true true 0x5A#8) writing = .next t ∧ t.err = true ∧ writing.phase = .write) ∧
    (∃ t, (inSession .flush 0 1 1).err = false ∧ tick (channel true true true 0x07#8) (inSession .flush 0 1 1) = .next t ∧
      t.err = true ∧ (inSession .flush 0 1 1).phase = .flush) :=
  ⟨⟨_, rfl, rfl, rfl, rfl⟩, ⟨_, rfl, rfl, rfl, rfl⟩⟩

theorem wit_PostOnlyAfterDrain :
    Inv Config.params (flushing []) ∧ (∃ t, tick good (flushing []) = .next t ∧ (flushing []).phase ≠ .post ∧ t.phase = .post) ∧
    idleTruthful 0 good (flushing []) := by
  refine ⟨?_, ⟨_, rfl, by simp [flushing], rfl⟩, ?_⟩
  · constructor <;>
      simp [flushing, written, started, startSession, clearResult, ready, State.reset, Memory.wf, Memory.wfFrom]
    omega
  · simp [idleTruthful, flushing, written, started, startSession, clearResult, ready, State.reset, good, channel]

theorem wit_IdleTickRunsTheCommand : good.rst = false ∧ State.reset.phase = .idle ∧ good.cmdValid = false ∧
    (presents 0x54D#12).rst = false ∧ (presents 0x54D#12).cmdValid = true := by decide

theorem wit_CommandsWaitDuringSession : (inSession .pre 1 0 1).phase ≠ .idle ∧ (inSession .post 1 1 1).phase ≠ .idle ∧
    (∃ t, tick { good with cmdValid := true, cmd := 0x4EE#12 } (inSession .post 1 1 1) = .next t ∧ t.phase = .idle) ∧
    good.rst = false := ⟨by decide, by decide, ⟨_, rfl, rfl⟩, rfl⟩

theorem wit_HostHoldsCommandUntilAccepted :
    ((⟨[[.command 0x300#12]], []⟩ : HostProgram).operations = (.command 0x300#12 :: []) :: [] ∧
      (inSession .pre 1 0 1).phase ≠ .idle ∧ resetSample.rst = true ∧ State.reset.phase = .idle ∧ good.rst = false) ∧
    (reading []).operations = (.wait :: [.readStatus, .command 0x300#12]) :: [] ∧
    ((⟨[[.readStatus]], []⟩ : HostProgram).operations = (.readStatus :: []) :: [] ∧ failedP2.err = true ∧
      { State.reset with done := true }.err = false ∧ { State.reset with done := true }.done = true ∧
      State.reset.err = false ∧ State.reset.done = false) := by decide

theorem wit_StepRunsTheDecodedInstruction :
    ({ State.reset with inq := [presents 0x54D#12] }.inq = presents 0x54D#12 :: [] ∧ State.reset.pkts = [] ∧
      (presents 0x54D#12).rst = false ∧ (presents 0x54D#12).cmdValid = true ∧
      decode (.command (presents 0x54D#12).cmd) = .ok (.pkPush 0x4D#8)) ∧
    ({ State.reset with pkts := packetQueue [terminatorPacket] }.pkts = ⟨terminatorPacket, false⟩ :: [] ∧
      decode (.packet terminatorPacket) = .ok .pktT) ∧
    ({ State.reset with pkts := packetQueue [[]] }.pkts = ⟨[], false⟩ :: [] ∧ decode (.packet []) = .error .tooShort) ∧
    ({ State.reset with done := true, pkts := [⟨terminatorPacket, true⟩] }.pkts = ⟨terminatorPacket, true⟩ :: [] ∧
      { State.reset with done := true }.err = false) ∧
    ({ failedP2 with pkts := [⟨terminatorPacket, true⟩] }.phase = .idle ∧ ¬ (failedP2.done = true ∧ failedP2.err = false)) ∧
    ((inSession .pre 1 0 1).phase ≠ .idle ∧ { inSession .pre 1 0 1 with inq := [good] }.inq = good :: []) ∧
    (State.reset.pkts = [] ∧ State.reset.inq = []) := by decide

theorem wit_StClrClearsSixFlags : State.reset.phase = .idle ∧ (inSession .pre 1 0 1).phase ≠ .idle ∧
    (∃ t, exec (decodeCommand 0x800#12) { State.reset with fOvf := true, fIll := true } = .next t ∧
      { State.reset with fOvf := true, fIll := true }.fOvf = true ∧ t.fOvf = false) := ⟨rfl, by decide, _, rfl, rfl, rfl⟩

theorem wit_ReservedCommandSetsFIll : State.reset.phase = .idle ∧ (inSession .write 0 0 1).phase ≠ .idle := by decide

theorem wit_StickyFlagsSetAndCleared :
    ((idleWith 261 0x00#8).pbLen.toNat ≤ 261 ∧ (idleWith 261 0x00#8).fOvf = false ∧ (idleWith 261 0x00#8).fIll = false ∧
      ∃ t, tick (presents 0x600#12) (idleWith 261 0x00#8) = .next t) ∧
    (∃ t, { State.reset with fOvf := true, fIll := true }.fOvf = true ∧ { State.reset with fOvf := true, fIll := true }.fIll = true ∧
      tick (presents 0x8FF#12) { State.reset with fOvf := true, fIll := true } = .next t) :=
  ⟨⟨by decide, rfl, rfl, _, rfl⟩, ⟨_, rfl, rfl, rfl⟩⟩

theorem wit_ResetTickAndValues : resetSample.rst = true ∧ ∃ t, tick resetSample writing = .next t := ⟨rfl, _, rfl⟩

theorem wit_StepKeepsInvariants : Inv Config.params (started [good]) ∧ ∃ t, step (started [good]) = .next t := by
  refine ⟨?_, ?_⟩
  · constructor <;> simp [started, startSession, clearResult, ready, State.reset, Memory.wf, Memory.wfFrom, Config.one_le_preTicks]
  · obtain ⟨n, hn⟩ : ∃ n, Config.params.preTicks = n + 1 := ⟨_, (Nat.succ_pred_eq_of_pos Config.one_le_preTicks).symm⟩
    exact ⟨_, step_busy_queued (x := good) (rest := List.replicate n good ++ [good]) (by simp [started])
      (by simp [started, startSession, clearResult, ready, hn, List.replicate_succ])⟩

/-- One byte, sent; then `PB.CLR`. -/
theorem wit_StepKeepsInvariants_pbClr :
    ∃ s t, Inv Config.params s ∧ s.txcnt.toNat ≤ s.pbLen.toNat ∧ step s = .next t ∧ ¬ t.txcnt.toNat ≤ t.pbLen.toNat := by
  refine ⟨{ idleWith 1 0x00#8 with pb := [(0, 0x54#8)], txcnt := 1, done := true, inq := [presents 0x300#12] }, _, ?_, by decide,
    rfl, by decide⟩
  constructor <;> simp [idleWith, State.reset, Memory.wf, Memory.wfFrom, Memory.read, pbCap]

theorem wit_SessionKeepsBufferAndFlags : good.rst = false ∧ writing.phase ≠ .idle ∧ ∃ t, tick good writing = .next t :=
  ⟨rfl, by decide, _, rfl⟩

theorem wit_TickIsTotal : (inSession .write 0 260 261).pbLen.toNat ≤ 261 ∧ resetSample.rst = true ∧ good.rst = false ∧
    (inSession .write 0 260 261).phase = .write ∧ State.reset.phase = .idle ∧ (inSession .pre 1 0 0).phase = .pre ∧
    (inSession .flush 0 0 0).phase = .flush ∧ (inSession .post 1 0 0).phase = .post := by decide

/-- The widths of two parameter records; 2^2 is the least power above 3. -/
theorem wit_GuardTimerFitsItsWidth : Inv Config.params State.reset ∧ max 2 (max 2 3) < 2 ^ 2 ∧
    (⟨2, 2, 3⟩ : Params).gtW = 2 ∧ (⟨2, 2, 4⟩ : Params).gtW = 3 := ⟨test_reset_inv, by decide, by decide, by decide⟩

/-- A tick of 3 milliseconds needs 4 ticks for 10. -/
theorem wit_GuardIntervalsAreRealised : 0 < 3 ∧ Config.leastTicks 10 3 1 = 4 ∧ 10 * 1 ≤ 4 * 3 := by decide

theorem wit_EncodePacketInvariants : (copies 255 0xFF#8).length ≤ 255 ∧ 255 < (copies 256 0x00#8).length := by
  simp

theorem wit_EncodeMessageIsComplete : ([] : List Byte).length ≤ 180 ∧ (copies 180 0x00#8).length ≤ 180 ∧ 180 < (copies 181 0x00#8).length := by
  simp

theorem wit_MessageFragmentsAreTheFragmentForm : (copies 180 0x00#8).length ≤ 180 ∧
    14 < ((copies 180 0x00#8).length + 11) / 12 ∧ 0 < ([0x41#8].length + 11) / 12 := by simp

theorem wit_DiagnosticSequenceHasTwentySteps : ∀ text ∈ diagnosticTexts [] 0, text.length ≤ 180 := by decide

end Sys2Proof.Tests
end

section
/-! The configuration: the width of the guard timer and the guard intervals (R7, R8, R23), and the choice of a step (R9, R168). -/

namespace Sys2Proof

/-- `GT_W` is the least width (R7): the widths that hold the largest load are those from `GT_W` on. -/
theorem Params.gtW_le_iff (P : Params) (w : Nat) : P.gtW ≤ w ↔ P.maxLoad < 2 ^ w := by
  unfold Params.gtW
  split
  next h0 => simp [h0]
  next h0 => exact Nat.succ_le_iff.trans (Nat.log2_lt h0)

theorem Params.maxLoad_lt_two_pow_gtW (P : Params) : P.maxLoad < 2 ^ P.gtW := (P.gtW_le_iff P.gtW).1 le_rfl

theorem Params.preTicks_le_maxLoad (P : Params) : P.preTicks ≤ P.maxLoad := le_max_left _ _

theorem Params.postTicks_le_maxLoad (P : Params) : P.postTicks ≤ P.maxLoad := (le_max_left _ _).trans (le_max_right _ _)

theorem Params.flushTmo_le_maxLoad (P : Params) : P.flushTmo ≤ P.maxLoad := (le_max_right _ _).trans (le_max_right _ _)

/-- In each phase `GT` is at most the value that phase loads it with (R38 (f)). -/
theorem Machine.Inv.gt_le_maxLoad {P : Params} {s : Machine.State} (hs : Machine.Inv P s) : s.gt ≤ P.maxLoad := by
  cases hp : s.phase with
  | idle => exact (hs.gtZero (.inl hp)).trans_le (Nat.zero_le _)
  | pre => exact (hs.gtPre hp).2.trans P.preTicks_le_maxLoad
  | write => exact (hs.gtZero (.inr hp)).trans_le (Nat.zero_le _)
  | flush => exact (hs.gtFlush hp).1.trans P.flushTmo_le_maxLoad
  | post => exact (hs.gtPost hp).2.trans P.postTicks_le_maxLoad

/-- R8's least count: `leastTicks` is a ceiling division, so a count reaches the interval exactly from it on. -/
theorem Config.leastTicks_le_iff {g num den n : Nat} (hn : 0 < num) :
    Config.leastTicks g num den ≤ n ↔ g * den ≤ n * num := by
  have hceil : Config.leastTicks g num den = (g * den) ⌈/⌉ num := rfl
  rw [hceil, ceilDiv_le_iff_le_mul hn, Nat.mul_comm num]

theorem Config.tTickNum_pos : 0 < Config.tTickNum := Nat.succ_pos _

theorem Config.tTickDen_pos : 0 < Config.tTickDen := Nat.succ_pos _

/-- Settles O55: the bound on `GT` is the largest load, which `GT_W` bits hold. -/
theorem guardTimerFitsItsWidth : Obligations.GuardTimerFitsItsWidth :=
  ⟨fun P => ⟨P.maxLoad_lt_two_pow_gtW, fun w hw => (P.gtW_le_iff w).2 hw⟩,
    fun P _ hs => hs.gt_le_maxLoad.trans_lt P.maxLoad_lt_two_pow_gtW⟩

/-- Settles O56: `PRE_TICKS` and `POST_TICKS` are the least count plus an OPEN excess. -/
theorem guardIntervalsAreRealised : Obligations.GuardIntervalsAreRealised := by
  have hleast : ∀ n, Config.leastTicks 10 Config.tTickNum Config.tTickDen ≤ n →
      10 * Config.tTickDen ≤ n * Config.tTickNum := fun _ => (Config.leastTicks_le_iff Config.tTickNum_pos).1
  have hwf : Config.params.wf = true := by simp [Params.wf, Config.one_le_preTicks, Config.one_le_postTicks]
  exact ⟨fun _ _ _ hn => (Config.leastTicks_le_iff hn).symm, hleast _ (Nat.le_add_right _ _),
    hleast _ (Nat.le_add_right _ _), Config.tTickNum_pos, Config.tTickDen_pos, hwf⟩

end Sys2Proof

namespace Sys2Proof.Machine

/-- R166, R168: an IDLE tick that accepts a command is the instruction its word decodes to. -/
theorem tick_command {x : Inputs} {s : State} {i : Instr} (hp : s.phase = .idle) (hr : x.rst = false)
    (hv : x.cmdValid = true) (hd : decode (.command x.cmd) = .ok i) : tick x s = exec i s := by
  have hi : decodeCommand x.cmd = i := Except.ok.inj hd
  simp [tick, idleTick, hr, hp, hv, hi]

theorem runPacket_ok {bytes : Packet} {i : Instr} (hd : decode (.packet bytes) = .ok i) (s : State) :
    runPacket bytes s = exec i s := by
  simp [runPacket, hd]

theorem runPacket_error {bytes : Packet} {e : DecodeError} (hd : decode (.packet bytes) = .error e) (s : State) :
    runPacket bytes s = .refused (.notAPacket e) := by
  simp [runPacket, hd]

/-- Settles O45: the five clauses are the five ways a step is chosen, each with its `step_` law. -/
theorem stepRunsTheDecodedInstruction : Obligations.StepRunsTheDecodedInstruction := by
  refine ⟨?command, ?packet, fun _ _ _ => step_giveUp, fun _ _ _ => step_queued, fun _ => step_free⟩
  case command =>
    intro x rest s i hp hk hq hr hv hd
    rw [step_queued (.inr hk) hq]
    exact tick_command hp hr hv hd
  case packet =>
    intro p rest s hp hk hf
    rw [step_packet hp hk hf]
    exact ⟨fun _ hd => runPacket_ok hd _, fun _ hd => runPacket_error hd _⟩

end Sys2Proof.Machine
end

section
/-! The state between steps (10_state.md): what a command and a tick do to the buffer and the sticky flags (R32, R33, R38 (h)) and
to `DE` (R22). -/

namespace Sys2Proof.Machine

/-! ## What a command does to one register -/

section Commands

variable {s : State} {i : Instr}

/-- A push keeps whatever both of its branches keep. -/
theorem ifRoom_keeps {α : Type} (g : State → α) {f : State → State} (hf : g (f s) = g s)
    (ho : g (setOverflow s) = g s) : g (ifRoom f s) = g s := by
  rw [ifRoom, apply_ite g, hf, ho, ite_self]

/-- A push that leaves `F_OVF` alone where there is room sets it exactly where there is none (R134). -/
theorem ifRoom_fOvf {f : State → State} (hf : (f s).fOvf = s.fOvf) :
    (ifRoom f s).fOvf = (s.fOvf || decide (pbCap ≤ s.pbLen.toNat)) := by
  by_cases h : s.pbLen.toNat < pbCap
  · simp [ifRoom_room f h, hf, h]
  · simp [ifRoom_full f h, Nat.le_of_not_lt h]

@[simp] theorem pushRaw_de (d : Byte) : (pushRaw d s).de = s.de := ifRoom_keeps State.de rfl rfl
@[simp] theorem pushRaw_txcnt (d : Byte) : (pushRaw d s).txcnt = s.txcnt := ifRoom_keeps State.txcnt rfl rfl
@[simp] theorem pushRaw_fIll (d : Byte) : (pushRaw d s).fIll = s.fIll := ifRoom_keeps State.fIll rfl rfl
@[simp] theorem pushRaw_fOvf (d : Byte) : (pushRaw d s).fOvf = (s.fOvf || decide (pbCap ≤ s.pbLen.toNat)) := ifRoom_fOvf rfl
@[simp] theorem pushSummed_de (d : Byte) : (pushSummed d s).de = s.de := ifRoom_keeps State.de rfl rfl
@[simp] theorem pushSummed_txcnt (d : Byte) : (pushSummed d s).txcnt = s.txcnt := ifRoom_keeps State.txcnt rfl rfl
@[simp] theorem pushSummed_fIll (d : Byte) : (pushSummed d s).fIll = s.fIll := ifRoom_keeps State.fIll rfl rfl
@[simp] theorem pushSummed_fOvf (d : Byte) : (pushSummed d s).fOvf = (s.fOvf || decide (pbCap ≤ s.pbLen.toNat)) :=
  ifRoom_fOvf rfl

/-- R22: no command but `TX.SEND` touches `DE`. -/
theorem commandEffect_de (h : ∀ d, i ≠ .txSend d) : (commandEffect i s).de = s.de := by
  cases i with
  | txSend d => exact absurd rfl (h d)
  | _ => simp [commandEffect, pushChecksum]

/-- R32: a command sets `F_OVF` exactly if it is a push at a full buffer. -/
theorem commandEffect_fOvf_set (h : s.fOvf = false) : (commandEffect i s).fOvf = true ↔
    pbCap ≤ s.pbLen.toNat ∧ ∃ d, i = .pbPush d ∨ i = .pkPush d ∨ i = .pkFin d := by
  cases i <;> simp [commandEffect, pushChecksum, h]

/-- R134: a push at a full buffer is dropped whole. -/
theorem commandEffect_push_full (hf : pbCap ≤ s.pbLen.toNat) (hi : ∃ d, i = .pbPush d ∨ i = .pkPush d ∨ i = .pkFin d) :
    commandEffect i s = setOverflow s := by
  obtain ⟨d, rfl | rfl | rfl⟩ := hi
  · exact pushRaw_full d hf.not_gt
  · exact pushSummed_full d hf.not_gt
  · exact pushSummed_full _ hf.not_gt

/-- R32, R211: a command clears `F_OVF` exactly if it is `ST.CLR`. -/
theorem commandEffect_fOvf_cleared (h : s.fOvf = true) : (commandEffect i s).fOvf = false ↔ ∃ d, i = .stClr d := by
  cases i <;> simp [commandEffect, pushChecksum, h]

/-- R33, R211: a command clears `F_ILL` exactly if it is `ST.CLR`. -/
theorem commandEffect_fIll_cleared (h : s.fIll = true) : (commandEffect i s).fIll = false ↔ ∃ d, i = .stClr d := by
  cases i <;> simp [commandEffect, pushChecksum, h]

/-- R33, R83: a command word sets `F_ILL` exactly if its operation code is 9 or more. -/
theorem commandEffect_fIll_set (h : s.fIll = false) (w : CmdWord) :
    (commandEffect (decodeCommand w) s).fIll = true ↔ 9 ≤ (opField w).toNat := by
  unfold decodeCommand
  split <;> simp [commandEffect, pushChecksum, *]
  case h_16 => -- the default arm of the decoder: the code is none of 0 to 14
    simp only [imp_false] at *
    omega

end Commands

/-! ## What a tick keeps (R38 (h)) -/

/-- The buffer, `PB_LEN`, `SUM` and the sticky flags change at a reset and at an accepted command, and at no other tick. -/
theorem tick_bufferAndFlags {x : Inputs} {s t : State} (h : tick x s = .next t) :
    (x.rst = true ∧ t = resetRegisters s) ∨
    (x.rst = false ∧ (s.phase = .idle ∧ x.cmdValid = true) ∧ t = commandEffect (decodeCommand x.cmd) s) ∨
    (x.rst = false ∧ ¬ (s.phase = .idle ∧ x.cmdValid = true) ∧
      t.pb = s.pb ∧ t.pbLen = s.pbLen ∧ t.sum = s.sum ∧ t.fOvf = s.fOvf ∧ t.fIll = s.fIll) := by
  cases tick_case h with
  | reset hr => exact .inl ⟨hr, rfl⟩
  | command hr hp hv => exact .inr (.inl ⟨hr, ⟨hp, hv⟩, rfl⟩)
  | noCommand hr hp hv => exact .inr (.inr ⟨hr, by simp [hv], rfl, rfl, rfl, rfl, rfl⟩)
  | preEnd hr hp | preCount hr hp | writeFault hr hp | handOver hr hp | transfer hr hp | overrun hr hp | notReady hr hp
  | flushFault hr hp | drained hr hp | timeout hr hp | flushCount hr hp | flushWait hr hp | postEnd hr hp | postCount hr hp =>
    exact .inr (.inr ⟨hr, by simp [hp], rfl, rfl, rfl, rfl, rfl⟩)

/-- Settles O53: a tick of a session is no reset and accepts no command. -/
theorem sessionKeepsBufferAndFlags : Obligations.SessionKeepsBufferAndFlags := by
  intro x s t hr hb h
  rcases tick_bufferAndFlags h with ⟨hr', -⟩ | ⟨-, ⟨hp, -⟩, -⟩ | ⟨-, -, hk⟩
  · simp [hr] at hr'
  · exact absurd hp hb
  · exact hk

/-- Settles O49: only a reset and an accepted command touch the sticky flags, and each command does what its lemma says. -/
theorem stickyFlagsSetAndCleared : Obligations.StickyFlagsSetAndCleared := by
  intro x s t hl h
  have hfull : pbCap ≤ s.pbLen.toNat ↔ s.pbLen.toNat = 261 := by simp only [pbCap]; omega
  rcases tick_bufferAndFlags h with ⟨hr, rfl⟩ | ⟨hr, ⟨hp, hv⟩, rfl⟩ | ⟨hr, hn, -, -, -, ho, hi⟩
  case inl => simp [hr]
  case inr.inl =>
    refine ⟨fun h0 => ?_, fun h0 h1 => ?_, fun h0 => ?_, fun h1 => ?_, fun h1 => ?_⟩
    · simp [hr, hp, hv, commandEffect_fOvf_set h0, hfull]
    · obtain ⟨hc, hpush⟩ := (commandEffect_fOvf_set h0).1 h1
      exact commandEffect_push_full hc hpush
    · simp [hr, hp, hv, commandEffect_fIll_set h0]
    · simp [hr, hp, hv, commandEffect_fOvf_cleared h1]
    · simp [hr, hp, hv, commandEffect_fIll_cleared h1]
  case inr.inr =>
    have hno : ∀ p : Prop, ¬ (s.phase = .idle ∧ x.cmdValid = true ∧ p) := fun _ ⟨hp, hv, _⟩ => hn ⟨hp, hv⟩
    rw [ho, hi]
    exact ⟨fun h0 => by simp [h0, hno], fun h0 h1 => by simp [h0] at h1, fun h0 => by simp [h0, hno],
      fun h1 => by simp [h1, hr, hno], fun h1 => by simp [h1, hr, hno]⟩

/-! ## The direction register (R22) -/

/-- Everything a tick can do to `DE`. -/
theorem tick_de {x : Inputs} {s t : State} (h : tick x s = .next t) :
    t.de = s.de ∨
    (t.de = true ∧ x.rst = false ∧ s.phase = .idle ∧ x.cmdValid = true ∧ ∃ d, decodeCommand x.cmd = .txSend d) ∨
    (t.de = false ∧ (x.rst = true ∨ (s.phase = .post ∧ s.gt = 1) ∨
      ∃ c i, (s.phase = .write ∨ s.phase = .flush) ∧ t = raiseFault c i s)) := by
  cases tick_case h with
  | reset hr => exact .inr (.inr ⟨rfl, .inl hr⟩)
  | command hr hp hv =>
    by_cases hd : ∃ d, decodeCommand x.cmd = .txSend d
    · refine .inr (.inl ⟨?_, hr, hp, hv, hd⟩)
      obtain ⟨d, hd⟩ := hd
      rw [hd]
      rfl
    · exact .inl (commandEffect_de (not_exists.1 hd))
  | writeFault hr hp => exact .inr (.inr ⟨rfl, .inr (.inr ⟨_, _, .inl hp, rfl⟩)⟩)
  | flushFault hr hp | timeout hr hp => exact .inr (.inr ⟨rfl, .inr (.inr ⟨_, _, .inr hp, rfl⟩)⟩)
  | postEnd hr hp hg => exact .inr (.inr ⟨rfl, .inr (.inl ⟨hp, hg⟩)⟩)
  | noCommand | preEnd | preCount | handOver | transfer | overrun | notReady | drained | flushCount | flushWait | postCount =>
    exact .inl rfl

theorem directionPin_eq_activeLevel_iff (s : State) : directionPin s = Config.deActiveLevel ↔ s.de = true := by
  cases hd : s.de <;> simp [directionPin, hd]

/-- Settles O39: a tick that moves `DE` is one of those `tick_de` names. -/
theorem directionSetAndClearedOnlyByTheSession : Obligations.DirectionSetAndClearedOnlyByTheSession := by
  refine ⟨fun x s t h => ⟨fun h0 h1 => ?_, fun h1 h0 => ?_⟩, fun s => ⟨rfl, directionPin_eq_activeLevel_iff s⟩⟩
  all_goals rcases tick_de h with hk | ⟨ht, hsend⟩ | ⟨ht, hdrop⟩
  · simp [hk, h0] at h1
  · exact hsend
  · simp [ht] at h1
  · simp [hk, h1] at h0
  · simp [ht] at h0
  · exact hdrop

end Sys2Proof.Machine
end

section
/-! The invariants of R38: each operation of the machine keeps them, so every step does. -/

namespace Sys2Proof.Machine

variable {P : Params} {s t : State}

/-- The values of `GT` that R38 (f) allows in a phase. -/
def GuardOk (P : Params) : Phase → Nat → Prop
  | .idle, g | .write, g => g = 0
  | .pre, g => 1 ≤ g ∧ g ≤ P.preTicks
  | .post, g => 1 ≤ g ∧ g ≤ P.postTicks
  | .flush, g => g ≤ P.flushTmo ∧ (P.flushTmo ≠ 0 → 1 ≤ g)

theorem Inv.guardOk (hs : Inv P s) : GuardOk P s.phase s.gt := by
  cases hp : s.phase with
  | idle => exact hs.gtZero (.inl hp)
  | pre => exact hs.gtPre hp
  | write => exact hs.gtZero (.inr hp)
  | flush => exact hs.gtFlush hp
  | post => exact hs.gtPost hp

/-- A phase that does not end at this tick keeps its range of `GT`. -/
theorem GuardOk.countDown {q : Phase} {g : Nat} (h : GuardOk P q g) (hg : g ≠ 1) : GuardOk P q (g - 1) := by
  cases q <;> simp only [GuardOk] at h ⊢ <;> omega

/-! ## The operations of a session -/

theorem Inv.startSession (hs : Inv P s) (hP : 1 ≤ P.preTicks) : Inv P (startSession P s) :=
  { hs with
    deIffBusy := by simp
    txcntLe := fun _ => Nat.zero_le _
    txcntCap := Nat.zero_le _
    errDone := by simp
    causeIffErr := by simp
    infoZero := fun _ => rfl
    gtZero := by simp
    gtPre := fun _ => ⟨hP, le_rfl⟩
    gtPost := by simp
    gtFlush := by simp
    busyClear := by simp }

/-- A session goes on, in the same phase or another, with a `GT` of that phase. -/
theorem Inv.setGuard (hs : Inv P s) (hb : s.phase ≠ .idle) {q : Phase} {g : Nat} (hq : q ≠ .idle) (hg : GuardOk P q g) :
    Inv P { s with phase := q, gt := g } :=
  { hs with
    deIffBusy := iff_of_true (hs.deIffBusy.2 hb) hq
    txcntLe := fun _ => hs.txcntLe hb
    busyClear := fun _ => hs.busyClear hb
    gtZero := by rintro (rfl | rfl) <;> exact hg
    gtPre := by rintro rfl; exact hg
    gtPost := by rintro rfl; exact hg
    gtFlush := by rintro rfl; exact hg }

/-- A byte on offer is taken. -/
theorem Inv.transfer (hs : Inv P s) (hc : s.txcnt < s.pbLen) (hi : s.txcnt.toNat < pbCap) (bs : List Byte) :
    Inv P { s with taken := bs, txcnt := s.txcnt + 1#9 } :=
  have hle : s.txcnt.toNat + 1 ≤ s.pbLen.toNat := BitVec.lt_def.1 hc
  { hs with
    txcntLe := fun _ => (txcnt_succ_toNat hi).trans_le hle
    txcntCap := (txcnt_succ_toNat hi).trans_le hi }

/-- A session ends, with or without a fault. -/
theorem Inv.finish (hs : Inv P s) {e : Bool} {c : Cause} {i : Byte} (hc : c ≠ .none ↔ e = true) (hi : e = false → i = 0x00#8) :
    Inv P { s with de := false, phase := .idle, gt := 0, done := true, err := e, cause := c, info := i } :=
  { hs with
    deIffBusy := by simp
    txcntLe := by simp
    errDone := fun _ => rfl
    causeIffErr := hc
    infoZero := hi
    gtZero := fun _ => rfl
    gtPre := by simp
    gtPost := by simp
    gtFlush := by simp
    busyClear := by simp }

theorem Inv.raiseFault (hs : Inv P s) {c : Cause} (hc : c ≠ .none) (i : Byte) : Inv P (raiseFault c i s) :=
  hs.finish (iff_of_true hc rfl) (by simp)

theorem Inv.endSession (hs : Inv P s) : Inv P (endSession s) := hs.finish hs.causeIffErr hs.infoZero

/-- After a reset nothing of the state before matters but the form of the buffer. -/
theorem inv_resetRegisters (hpb : s.pb.wf = true) : Inv P (resetRegisters s) := by
  constructor <;> simp [hpb]

/-! ## The operations of a command -/

theorem Inv.clearBuffer (hs : Inv P s) (hp : s.phase = .idle) : Inv P (clearBuffer s) :=
  { hs with
    txcntLe := fun hb => absurd hp hb
    pbLenLe := Nat.zero_le _
    validWritten := fun _ hi => absurd hi (Nat.not_lt_zero _) }

theorem Inv.appendByte (hs : Inv P s) (h : s.pbLen.toNat < pbCap) (d : Byte) : Inv P (appendByte d s) :=
  have hl : (Machine.appendByte d s).pbLen.toNat = s.pbLen.toNat + 1 := pbLen_succ_toNat h
  { hs with
    txcntLe := fun hb => (hs.txcntLe hb).trans (by omega)
    pbLenLe := by omega
    pbWf := s.pb.wf_write d h hs.pbWf
    validWritten := fun i hi => by
      rw [appendByte_pb, Memory.read_write]
      split
      · rfl
      next hne =>
        have hne' : i ≠ s.pbLen.toNat := hne
        exact hs.validWritten i (by omega) }

theorem Inv.pushRaw (hs : Inv P s) (d : Byte) : Inv P (pushRaw d s) := by
  by_cases h : s.pbLen.toNat < pbCap
  · rw [pushRaw_room d h]
    exact hs.appendByte h d
  · rw [pushRaw_full d h]
    exact { hs with }

theorem Inv.pushSummed (hs : Inv P s) (d : Byte) : Inv P (pushSummed d s) := by
  by_cases h : s.pbLen.toNat < pbCap
  · rw [pushSummed_room d h]
    exact { hs.appendByte h d with }
  · rw [pushSummed_full d h]
    exact { hs with }

theorem Inv.dismissStatus (hs : Inv P s) : Inv P (dismissStatus s) :=
  { hs with
    errDone := by simp
    causeIffErr := by simp
    infoZero := fun _ => rfl
    busyClear := fun _ => ⟨rfl, rfl⟩ }

/-- Every command accepted in IDLE keeps the invariants. -/
theorem Inv.commandEffect (hs : Inv Config.params s) (hp : s.phase = .idle) (i : Instr) :
    Inv Config.params (commandEffect i s) := by
  cases i with
  | pbClr d => exact hs.clearBuffer hp
  | pbPush d => exact hs.pushRaw d
  | pkPush d => exact hs.pushSummed d
  | pkFin d => exact hs.pushSummed _
  | txSend d => exact hs.startSession Config.one_le_preTicks
  | stClr d => exact hs.dismissStatus
  | _ => exact { hs with }

/-- `ENCODE_PACKET` is `PB.CLR`, `CS.CLR` and pushes. -/
theorem Inv.encodeIntoBuffer (hs : Inv P s) (hp : s.phase = .idle) (t : Byte) (body : List Byte) :
    Inv P (encodeIntoBuffer t body s) := by
  have hcovered : Inv P (pushCovered t body s) :=
    List.foldlRecOn _ _ (motive := Inv P) { hs.clearBuffer hp with } fun _ hu d _ => hu.pushSummed d
  exact hcovered.pushSummed _

/-! ## Ticks and steps -/

theorem Inv.tick {x : Inputs} (hs : Inv Config.params s) (h : tick x s = .next t) : Inv Config.params t := by
  cases tick_case h with
  | reset => exact inv_resetRegisters hs.pbWf
  | noCommand | notReady | flushWait => exact hs
  | command _ hp => exact hs.commandEffect hp _
  | preEnd _ hp => exact hs.setGuard (by simp [hp]) (by simp) rfl
  | preCount _ hp hg | flushCount _ hp _ _ _ hg | postCount _ hp hg =>
    have hb : s.phase ≠ .idle := by simp [hp]
    exact hs.setGuard hb hb (hs.guardOk.countDown hg)
  | handOver _ hp => exact hs.setGuard (by simp [hp]) (by simp) ⟨le_rfl, Nat.one_le_iff_ne_zero.2⟩
  | transfer _ _ _ _ hc hi => exact hs.transfer hc hi _
  | overrun _ hp _ _ hc => exact absurd (hs.txcntLe (by simp [hp])) (Nat.not_le.2 (BitVec.lt_def.1 hc))
  | drained _ hp => exact hs.setGuard (by simp [hp]) (by simp) ⟨Config.one_le_postTicks, le_rfl⟩
  | writeFault | flushFault | timeout => exact hs.raiseFault (by simp) _
  | postEnd => exact hs.endSession

/-- The invariants speak of the registers and the buffer alone. -/
theorem Inv.setAgents (hs : Inv P s) (q : List Inputs) (n : Nat) (k : List QueuedPacket) :
    Inv P { s with inq := q, draws := n, pkts := k } := { hs with }

/-- `step_cases` with the sample of the tick named: giving up packets changes neither the queue of samples nor the draws. -/
theorem step_packet_or_tick (s : State) :
    (∃ (bytes : Packet) (k : List QueuedPacket), s.phase = .idle ∧ step s = runPacket bytes { s with pkts := k }) ∨
    (∃ (q : List Inputs) (n : Nat) (k : List QueuedPacket),
      step s = tick (takeInputs s).1 { s with inq := q, draws := n, pkts := k }) := by
  have he := endOperation_eq s
  unfold step
  cases hk : takePacket (endOperation s) with
  | some r =>
    obtain ⟨bytes, u⟩ := r
    obtain ⟨hp, p, rest, -, -, rfl⟩ := takePacket_some hk
    exact .inl ⟨bytes, rest, by simpa using hp, by rw [he]⟩
  | none =>
    rw [he]
    cases hq : s.inq with
    | cons x rest => exact .inr ⟨rest, s.draws, (endOperation s).pkts, by simp only [takeInputs, hq]⟩
    | nil => exact .inr ⟨[], s.draws + 1, (endOperation s).pkts, by simp only [takeInputs, hq]⟩

theorem Inv.step (hs : Inv Config.params s) (h : step s = .next t) : Inv Config.params t := by
  rcases step_packet_or_tick s with ⟨bytes, k, hp, hstep⟩ | ⟨q, n, k, hstep⟩
  · obtain ⟨ty, body, -, rfl⟩ := runPacket_next (s := { s with pkts := k }) hp (hstep ▸ h)
    exact ((hs.setAgents s.inq s.draws k).encodeIntoBuffer hp ty body).startSession Config.one_le_preTicks
  · exact (hs.setAgents q n k).tick (hstep ▸ h)

/-! ## `TXCNT ≤ PB_LEN` in IDLE -/

/-- A push that counts up or leaves `PB_LEN` keeps the bytes sent among the valid ones. -/
theorem pbLen_le_ifRoom {f : State → State} (hf : (f s).pbLen = s.pbLen + 1#9) : s.pbLen.toNat ≤ (ifRoom f s).pbLen.toNat := by
  by_cases h : s.pbLen.toNat < pbCap
  · rw [ifRoom_room f h, hf, pbLen_succ_toNat h]
    exact Nat.le_succ _
  · rw [ifRoom_full f h, setOverflow_pbLen]

/-- Every command but `PB.CLR` keeps `TXCNT ≤ PB_LEN`. -/
theorem commandEffect_txcntLe {i : Instr} (hi : ∀ d, i ≠ .pbClr d) (h : s.txcnt.toNat ≤ s.pbLen.toNat) :
    (commandEffect i s).txcnt.toNat ≤ (commandEffect i s).pbLen.toNat := by
  cases i with
  | pbClr d => exact absurd rfl (hi d)
  | pbPush d => exact (pushRaw_txcnt d ▸ h).trans (pbLen_le_ifRoom rfl)
  | pkPush d => exact (pushSummed_txcnt d ▸ h).trans (pbLen_le_ifRoom rfl)
  | pkFin d => exact (pushSummed_txcnt (checksumOperand s) ▸ h).trans (pbLen_le_ifRoom rfl)
  | txSend d => exact Nat.zero_le _
  | _ => exact h

/-- A tick that breaks `TXCNT ≤ PB_LEN` accepts `PB.CLR`. -/
theorem tick_txcntLe {x : Inputs} (hs : Inv Config.params s) (hle : s.txcnt.toNat ≤ s.pbLen.toNat) (h : tick x s = .next t)
    (hn : ¬ t.txcnt.toNat ≤ t.pbLen.toNat) :
    x.rst = false ∧ s.phase = .idle ∧ x.cmdValid = true ∧ ∃ d, decodeCommand x.cmd = .pbClr d := by
  have hidle : t.phase = .idle := by
    by_contra hb
    exact hn ((hs.tick h).txcntLe hb)
  cases tick_case h with
  | reset => exact absurd (Nat.zero_le _) hn
  | command hr hp hv =>
    refine ⟨hr, hp, hv, ?_⟩
    by_contra hd
    exact hn (commandEffect_txcntLe (not_exists.1 hd) hle)
  | transfer _ hp | overrun _ hp => simp [hp] at hidle
  | noCommand | preEnd | preCount | writeFault | handOver | notReady | flushFault | drained | timeout | flushCount | flushWait
  | postEnd | postCount => exact absurd hle hn

/-- Settles O52: a packet's step starts a session, with `TXCNT = 0`; every other step is a tick. -/
theorem stepKeepsInvariants : Obligations.StepKeepsInvariants := by
  refine ⟨fun s t hs h => hs.step h, fun s t hs hle h hn => ?_⟩
  rcases step_packet_or_tick s with ⟨bytes, k, hp, hstep⟩ | ⟨q, n, k, hstep⟩
  · obtain ⟨ty, body, -, rfl⟩ := runPacket_next (s := { s with pkts := k }) hp (hstep ▸ h)
    exact absurd (Nat.zero_le _) hn
  · have htick := hstep ▸ h
    obtain ⟨hr, hp, hv, d, hd⟩ := tick_txcntLe (hs.setAgents q n k) hle htick hn
    have ht := tick_command hp hr hv (congrArg Except.ok hd)
    rw [htick] at ht
    obtain rfl := Host.Outcome.next.inj (ht.trans (accepted_idle clearBuffer hp))
    exact ⟨hp, hr, hv, ⟨d, hd⟩, rfl, rfl⟩

/-- Settles O51: the reset state is what a reset leaves of itself, and its buffer is empty. -/
theorem resetMeetsInvariants : Obligations.ResetMeetsInvariants := inv_resetRegisters (s := State.reset) Memory.wf_nil

end Sys2Proof.Machine
end

section
/-! R39: a session depends on the packet and on the inputs. Two states that agree on them and on the registers of a session show
the same, and so do the states a tick leads to. -/

namespace Sys2Proof.Machine

variable {s t : State}

/-- Two states that agree on all a session depends on: its registers, the packet and the inputs to come. `SUM`, the sticky flags,
the bytes above `PB_LEN`, the record of what was sent and the packets that wait are left out. -/
structure SameSession (s t : State) : Prop where
  phase  : s.phase = t.phase
  de     : s.de = t.de
  gt     : s.gt = t.gt
  txcnt  : s.txcnt = t.txcnt
  done   : s.done = t.done
  err    : s.err = t.err
  cause  : s.cause = t.cause
  info   : s.info = t.info
  inq    : s.inq = t.inq
  draws  : s.draws = t.draws
  packet : SamePacket s t

/-- Two ticks end in the same way, in states that agree again. -/
inductive SameOutcome : Result → Result → Prop where
  | next {s t : State} (h : SameSession s t) : SameOutcome (.next s) (.next t)
  | fault (f : Fault) : SameOutcome (.fault f) (.fault f)

theorem SameSession.pbLen (h : SameSession s t) : s.pbLen = t.pbLen := h.packet.1

theorem SameSession.chValid (h : SameSession s t) : chValid s = chValid t := by
  simp only [Machine.chValid, h.phase, h.txcnt, h.pbLen]

/-- The byte on offer is a byte of the packet. -/
theorem SameSession.chData (h : SameSession s t) : chData s = chData t := by
  simp only [Machine.chData, h.chValid, offerIndex, h.txcnt]
  split
  next hv =>
    have hlt : t.txcnt < s.pbLen := by
      simp only [Machine.chValid, Bool.and_eq_true, decide_eq_true_eq] at hv
      exact h.pbLen ▸ hv.2
    exact h.packet.2 _ (BitVec.lt_def.1 hlt)
  next => rfl

theorem SameSession.sessionView (h : SameSession s t) : sessionView s = sessionView t := by
  simp only [Machine.sessionView, busy, h.de, h.chValid, h.chData, h.phase, h.done, h.err, h.cause, h.info, h.txcnt]

/-! ## Ticks -/

theorem SameSession.raiseFault (h : SameSession s t) (c : Cause) (i : Byte) : SameSession (raiseFault c i s) (raiseFault c i t) :=
  { h with phase := rfl, de := rfl, gt := rfl, done := rfl, err := rfl, cause := rfl, info := rfl }

theorem SameSession.setGuard (h : SameSession s t) (q : Phase) (g : Nat) :
    SameSession { s with phase := q, gt := g } { t with phase := q, gt := g } :=
  { h with phase := rfl, gt := rfl }

/-- After a reset no byte of the buffer is valid, so the packets are the same whatever they were. -/
theorem SameSession.resetRegisters (h : SameSession s t) : SameSession (resetRegisters s) (resetRegisters t) :=
  ⟨rfl, rfl, rfl, rfl, rfl, rfl, rfl, rfl, h.inq, h.draws, rfl, fun _ hi => absurd hi (Nat.not_lt_zero _)⟩

theorem SameSession.preTick (h : SameSession s t) : SameSession (preTick s) (preTick t) := by
  simp only [Machine.preTick, ← h.gt]
  split
  · exact h.setGuard .write 0
  · exact { h with gt := rfl }

theorem SameSession.postTick (h : SameSession s t) : SameSession (postTick s) (postTick t) := by
  simp only [Machine.postTick, ← h.gt]
  split
  · exact { h with phase := rfl, de := rfl, gt := rfl, done := rfl }
  · exact { h with gt := rfl }

theorem SameSession.flushTick (h : SameSession s t) (P : Params) (x : Inputs) :
    SameSession (flushTick P x s) (flushTick P x t) := by
  simp only [Machine.flushTick, ← h.gt]
  split
  · exact h.raiseFault _ _
  · split
    · exact h.setGuard .post P.postTicks
    · split
      · split
        · exact h.raiseFault _ _
        · exact { h with gt := rfl }
      · exact h

theorem SameSession.transferByte (h : SameSession s t) : SameOutcome (transferByte s) (transferByte t) := by
  have ho : offerIndex s = offerIndex t := congrArg BitVec.toNat h.txcnt
  rw [Machine.transferByte, Machine.transferByte, ← ho, ← h.txcnt, ← h.pbLen]
  split
  · split
    · exact .next { h with txcnt := rfl, packet := ⟨rfl, h.packet.2⟩ }
    · exact .fault _
  · exact .next { h with txcnt := rfl, packet := ⟨rfl, h.packet.2⟩ }

theorem SameSession.writeTick (h : SameSession s t) (P : Params) (x : Inputs) :
    SameOutcome (writeTick P x s) (writeTick P x t) := by
  simp only [Machine.writeTick, ← h.txcnt, ← h.pbLen]
  split
  · exact .next (h.raiseFault _ _)
  · split
    · exact .next { h with phase := rfl, gt := rfl, txcnt := rfl, packet := ⟨rfl, h.packet.2⟩ }
    · split
      · exact h.transferByte
      · exact .next h

/-- A tick of a session reads nothing but what the two states agree on. -/
theorem SameSession.tick (h : SameSession s t) (hb : s.phase ≠ .idle) (x : Inputs) : SameOutcome (tick x s) (tick x t) := by
  simp only [Machine.tick, ← h.phase]
  split
  · exact .next h.resetRegisters
  · cases hp : s.phase with
    | idle => exact absurd hp hb
    | pre => exact .next h.preTick
    | write => exact h.writeTick _ _
    | flush => exact .next (h.flushTick _ _)
    | post => exact .next h.postTick

/-! ## Steps -/

/-- Both draw the same sample. -/
theorem SameSession.takeInputs (h : SameSession s t) :
    (takeInputs s).1 = (takeInputs t).1 ∧ SameSession (takeInputs s).2 (takeInputs t).2 := by
  simp only [Machine.takeInputs, ← h.inq, ← h.draws]
  split
  · exact ⟨rfl, { h with inq := rfl, draws := rfl }⟩
  · exact ⟨rfl, { h with inq := rfl, draws := rfl }⟩

theorem takeInputs_phase (s : State) : (takeInputs s).2.phase = s.phase := by
  unfold takeInputs
  split <;> rfl

theorem SameSession.step (h : SameSession s t) (hb : s.phase ≠ .idle) : SameOutcome (step s) (step t) := by
  obtain ⟨hx, hu⟩ := h.takeInputs
  rw [step_noPacket (.inl hb), step_noPacket (.inl (h.phase ▸ hb)), ← hx]
  exact hu.tick (takeInputs_phase s ▸ hb) _

theorem SameSession.sessionViews (h : SameSession s t) (n : Nat) : sessionViews n s = sessionViews n t := by
  induction n generalizing s t with
  | zero => simp only [Machine.sessionViews, h.sessionView]
  | succ n ih =>
    simp only [Machine.sessionViews, h.sessionView, ← h.phase]
    by_cases hb : s.phase = .idle
    · simp only [hb, if_true]
    · simp only [hb, if_false]
      have hstep := h.step hb
      generalize Machine.step s = u, Machine.step t = v at hstep ⊢
      cases hstep with
      | next hu => simp only [ih hu]
      | fault => rfl

/-- `TX.SEND` sets every register of a session. -/
theorem SamePacket.startSession (hp : SamePacket s t) (hq : s.inq = t.inq) (hd : s.draws = t.draws) (P : Params) :
    SameSession (startSession P s) (startSession P t) :=
  ⟨rfl, rfl, rfl, rfl, rfl, rfl, rfl, rfl, hq, hd, hp⟩

/-- Settles O38: the two sessions begin in states that agree, and every step of a session keeps that. -/
theorem sessionDependsOnPacketAndInputsOnly : Obligations.SessionDependsOnPacketAndInputsOnly := by
  intro d e n s t s0 t0 hs ht hpk hq hdr h0 h1
  obtain rfl := Host.Outcome.next.inj ((accepted_idle (startSession Config.params) hs).symm.trans h0)
  obtain rfl := Host.Outcome.next.inj ((accepted_idle (startSession Config.params) ht).symm.trans h1)
  exact (hpk.startSession hq hdr Config.params).sessionViews n

end Sys2Proof.Machine
end

section
/-! The memory (20_memory.md): the buffer is append-only (R61), and the bus is held until the channel has drained (R69). -/

namespace Sys2Proof.Machine

variable {s t : State}

/-! ## The buffer is append-only (R61, R138) -/

/-- What R61 allows from `s` to `t`: the bytes already pushed read as before, and `PB_LEN` stays, goes up by one, or becomes 0. -/
def AppendOnly (s t : State) : Prop :=
  (∀ a, a < s.pbLen.toNat → t.pb.read a = s.pb.read a) ∧
  (t.pbLen = s.pbLen ∨ t.pbLen.toNat = s.pbLen.toNat + 1 ∨ t.pbLen = 0#9)

theorem AppendOnly.of_pb_eq (hb : t.pb = s.pb) (hl : t.pbLen = s.pbLen ∨ t.pbLen = 0#9) : AppendOnly s t :=
  ⟨fun a _ => congrArg (·.read a) hb, hl.imp_right .inr⟩

/-- The byte appended is stored above every byte already pushed. -/
theorem appendByte_appendOnly (h : s.pbLen.toNat < pbCap) (d : Byte) : AppendOnly s (appendByte d s) :=
  ⟨fun _ ha => s.pb.read_write_other d (Nat.ne_of_lt ha), .inr (.inl (pbLen_succ_toNat h))⟩

/-- A push whose effect appends is append-only: without room it is dropped (R134). -/
theorem ifRoom_appendOnly {f : State → State} (hf : s.pbLen.toNat < pbCap → AppendOnly s (f s)) : AppendOnly s (ifRoom f s) := by
  by_cases h : s.pbLen.toNat < pbCap
  · rw [ifRoom_room f h]
    exact hf h
  · rw [ifRoom_full f h]
    exact .of_pb_eq rfl (.inl rfl)

/-- The pushes append, `PB.CLR` empties, and no other command touches the buffer or `PB_LEN`. -/
theorem commandEffect_appendOnly (i : Instr) (s : State) : AppendOnly s (commandEffect i s) := by
  cases i with
  | pbPush d | pkPush d => exact ifRoom_appendOnly fun h => appendByte_appendOnly h d
  | pkFin d => exact ifRoom_appendOnly fun h => appendByte_appendOnly h (checksumOperand s)
  | pbClr d => exact .of_pb_eq rfl (.inr rfl)
  | _ => exact .of_pb_eq rfl (.inl rfl)

/-- Settles O19: a reset keeps the bytes and sets `PB_LEN` to 0, a command is append-only, and every other tick keeps both. -/
theorem bufferIsAppendOnly : Obligations.BufferIsAppendOnly := by
  intro x s t _ h
  change AppendOnly s t
  rcases tick_bufferAndFlags h with ⟨-, rfl⟩ | ⟨-, -, rfl⟩ | ⟨-, -, hpb, hlen, -⟩
  · exact .of_pb_eq rfl (.inr rfl)
  · exact commandEffect_appendOnly _ s
  · exact .of_pb_eq hpb (.inl hlen)

/-! ## The drain barrier (R69, R291) -/

/-- R166: a command keeps the phase, or is `TX.SEND` and starts a session in PRE. -/
theorem commandEffect_phase (i : Instr) (s : State) :
    (commandEffect i s).phase = s.phase ∨ (commandEffect i s).phase = .pre := by
  cases i with
  | txSend d => exact .inr rfl
  | pbPush d | pkPush d | pkFin d => exact .inl (ifRoom_keeps State.phase rfl rfl)
  | _ => exact .inl rfl

/-- R164: the one tick that enters POST is the FLUSH tick that finds the channel idle; it keeps all but `PHASE` and `GT`. -/
theorem tick_enters_post {x : Inputs} (h : tick x s = .next t) (hs : s.phase ≠ .post) (ht : t.phase = .post) :
    s.phase = .flush ∧ x.rst = false ∧ x.chFault = false ∧ x.chIdle = true ∧
      t = { s with phase := .post, gt := Config.params.postTicks } := by
  cases tick_case h with
  | drained hr hp hf hi => exact ⟨hp, hr, hf, hi, rfl⟩
  | command _ hp => rcases commandEffect_phase (decodeCommand x.cmd) s with hc | hc <;> simp [hc, hp] at ht
  | reset | preEnd | writeFault | handOver | flushFault | timeout | postEnd => simp at ht
  | noCommand | preCount | transfer | overrun | notReady | flushCount | flushWait | postCount => exact absurd ht hs

/-- Settles O41: by `tick_enters_post` the tick samples `ch_idle = 1` in FLUSH and keeps `DE`, which is 1 in a session (R38 (a)),
and the bytes taken, to which the channel's promise speaks. -/
theorem postOnlyAfterDrain : Obligations.PostOnlyAfterDrain := by
  intro left x s t hs h hn ht
  obtain ⟨hp, hr, hf, hi, rfl⟩ := tick_enters_post h hn ht
  have hde : s.de = true := hs.deIffBusy.2 (by simp [hp])
  exact ⟨hp, hr, hf, hi, hde, rfl, fun ⟨_, hdrained⟩ => hdrained.1 hi⟩

end Sys2Proof.Machine
end

section
/-! The encodings (30_encoding.md): a command word is its two fields, a wire packet is its type and its body, and the decoder and
the encoder undo each other on both. -/

namespace Sys2Proof

/-! ## Command words (R80, R82) -/

/-- A word whose operation code is `op` is `op` with its operand byte. -/
theorem commandWord_of_opField {w : CmdWord} {op : BitVec 4} (h : (opField w).toNat = op.toNat) :
    commandWord op (dField w) = w := by
  rw [← BitVec.eq_of_toNat_eq h, commandWord_fields]

theorem wellFormed_decodeCommand (w : CmdWord) : wellFormed (decodeCommand w) = true := by
  unfold decodeCommand
  split <;> rfl

theorem encode_decodeCommand (w : CmdWord) : encode (decodeCommand w) = .command w := by
  unfold decodeCommand
  split
  case h_16 => -- the default arm: the code is none of 0 to 14
    simp only [imp_false] at *
    exact congrArg Presented.command (commandWord_of_opField (by simp; omega))
  all_goals exact congrArg Presented.command (commandWord_of_opField ‹_›)

/-! ## The body of a message fragment (R91, R92) -/

/-- R92's sub-type byte has the fragment's index in its high nibble and 1 in its low one. -/
theorem subType_eq_append (k : BitVec 4) : subType k = k ++ 1#4 := by decide +revert

@[simp] theorem subType_index (k : BitVec 4) : (subType k).extractLsb' 4 4 = k := by
  rw [subType_eq_append]
  exact BitVec.extractLsb'_append_eq_left

@[simp] theorem subType_low (k : BitVec 4) : (subType k).extractLsb' 0 4 = 1#4 := by
  rw [subType_eq_append]
  exact BitVec.extractLsb'_append_eq_right

/-- A byte with 1 in its low nibble is the sub-type of its high nibble. -/
theorem subType_of_low {st : Byte} (h : st.extractLsb' 0 4 = 1#4) : subType (st.extractLsb' 4 4) = st := by
  rw [subType_eq_append, ← h]
  exact (BitVec.extractLsb'_append_extractLsb'_eq_extractLsb' (by rfl)).trans (by simp)

/-- The operands of a fragment in the decoder's terms: an index that is not 0, and 1 to 12 text bytes. -/
theorem wellFormed_pktMFrag_iff {k : BitVec 4} {text : List Byte} :
    wellFormed (.pktMFrag k text) = true ↔ k ≠ 0#4 ∧ 1 ≤ text.length ∧ text.length ≤ 12 := by
  simp [wellFormed, fragIndexOk, fragTextOk, Nat.one_le_iff_ne_zero, ← BitVec.toNat_inj]

/-- `fragFields` reads an index and a text in range from the body that `fragBody` builds of them, and from no other. -/
theorem fragFields_eq_some_iff {body text : List Byte} {k : BitVec 4} :
    fragFields body = some (k, text) ↔ body = fragBody k text ∧ wellFormed (.pktMFrag k text) = true := by
  rw [wellFormed_pktMFrag_iff]
  constructor
  · intro h
    unfold fragFields at h
    split at h
    · split at h
      next hc =>
        obtain ⟨rfl, rfl, hlow, hrange⟩ := hc
        obtain ⟨rfl, rfl⟩ : _ ∧ _ := by simpa using h
        exact ⟨by rw [fragBody, subType_of_low hlow], hrange⟩
      next => cases h
    · cases h
  · rintro ⟨rfl, hrange⟩
    simp [fragFields, fragBody, hrange]

/-- `wellFormed` and the decoder recognise the same bodies as fragments. -/
theorem isFragBody_eq_isSome (body : List Byte) : isFragBody body = (fragFields body).isSome := by
  match body with
  | [] | [_] | [_, _] => rfl
  | a :: b :: st :: text =>
    have hlow : st.extractLsb' 0 4 = 1#4 ↔ st.toNat % 16 = 1 := by
      simp [← BitVec.toNat_inj]
    have hindex : st.extractLsb' 4 4 ≠ 0#4 ↔ 16 ≤ st.toNat := by
      simp [← BitVec.toNat_inj]; omega
    rw [Bool.eq_iff_iff]
    simp [isFragBody, fragFields, hlow, hindex, fragTextOk, and_assoc]

/-! ## The form of a packet (R91, R93, R94) -/

theorem hasOwnForm_eq_false_iff {t : Byte} {body : List Byte} :
    hasOwnForm t body = false ↔
      ¬ (t = typeT ∧ body = []) ∧ ¬ (t = typeM ∧ body = resetBody) ∧ (t = typeM → fragFields body = none) := by
  simp [hasOwnForm, isFragBody_eq_isSome, typeT, typeM, resetBody, imp_and]

/-- A packet without a row of its own is a `PKT`. -/
theorem packetForm_eq_pkt {t : Byte} {body : List Byte} (h : hasOwnForm t body = false) : packetForm t body = .pkt t body := by
  obtain ⟨hT, hR, hF⟩ := hasOwnForm_eq_false_iff.1 h
  rw [packetForm, if_neg hT, if_neg hR]
  split
  next ht => rw [hF ht]
  next => rfl

/-- A well-formed fragment's packet is read as that fragment; its body is not the reset command's, whose sub-type is 0. -/
theorem packetForm_fragBody {k : BitVec 4} {text : List Byte} (h : wellFormed (.pktMFrag k text) = true) :
    packetForm typeM (fragBody k text) = .pktMFrag k text := by
  have hT : ¬ (typeM = typeT ∧ fragBody k text = []) := by simp [fragBody]
  have hR : ¬ (typeM = typeM ∧ fragBody k text = resetBody) := by
    obtain ⟨-, hlen, -⟩ := wellFormed_pktMFrag_iff.1 h
    rintro ⟨-, hb⟩
    simp only [fragBody, resetBody, List.cons.injEq] at hb
    obtain ⟨-, -, -, rfl⟩ := hb
    simp at hlen
  rw [packetForm, if_neg hT, if_neg hR, if_pos rfl, fragFields_eq_some_iff.2 ⟨rfl, h⟩]

/-- Every instruction `packetForm` gives is well-formed and stands for the packet of that type and body. -/
theorem packetForm_encodes (t : Byte) {body : List Byte} (h : body.length ≤ 255) :
    wellFormed (packetForm t body) = true ∧ encode (packetForm t body) = .packet (packetBytes t body) := by
  by_cases hT : t = typeT ∧ body = []
  · obtain ⟨rfl, rfl⟩ := hT
    exact ⟨rfl, rfl⟩
  by_cases hR : t = typeM ∧ body = resetBody
  · obtain ⟨rfl, rfl⟩ := hR
    exact ⟨rfl, rfl⟩
  by_cases hF : ∃ f, t = typeM ∧ fragFields body = some f
  · obtain ⟨⟨k, text⟩, rfl, hf⟩ := hF
    obtain ⟨rfl, hw⟩ := fragFields_eq_some_iff.1 hf
    rw [packetForm_fragBody hw]
    exact ⟨hw, rfl⟩
  · have hown : hasOwnForm t body = false :=
      hasOwnForm_eq_false_iff.2 ⟨hT, hR, fun ht => Option.eq_none_iff_forall_ne_some.2 fun f hf => hF ⟨f, ht, hf⟩⟩
    rw [packetForm_eq_pkt hown]
    exact ⟨by simp [wellFormed, bodyFits, h, hown], rfl⟩

/-! ## The bytes of a packet (R86 to R90) -/

/-- The length byte holds the length of a body that fits. -/
theorem lengthByte_toNat {body : List Byte} (h : body.length ≤ 255) : (BitVec.ofNat 8 body.length).toNat = body.length := by
  simp; omega

theorem packetBytes_eq_cons (t : Byte) (body : List Byte) : packetBytes t body =
    t :: 0xC3#8 :: 0xFF#8 :: 0xF5#8 :: BitVec.ofNat 8 body.length :: (body ++ [docChecksum (packetCovered t body)]) := rfl

theorem decodePacket_packetBytes (t : Byte) {body : List Byte} (h : body.length ≤ 255) :
    decodePacket (packetBytes t body) = .ok (packetForm t body) := by
  rw [packetBytes_eq_cons]
  simp [decodePacket, lengthByte_toNat h, packetCovered, packetHeader]

/-- What the decoder reads as a packet is the packet of some type and some body that fits. -/
theorem decodePacket_ok {bytes : List Byte} {i : Instr} (h : decodePacket bytes = .ok i) :
    ∃ t body, body.length ≤ 255 ∧ bytes = packetBytes t body ∧ i = packetForm t body := by
  unfold decodePacket at h
  split at h
  case h_2 => cases h
  case h_1 t s0 s1 s2 len rest =>
    iterate 5 (split at h; · cases h)
    next h0 h1 h2 hlen hsum =>
      simp only [ne_eq, not_not] at h0 h1 h2 hlen hsum
      have hbody : (rest.take len.toNat).length = len.toNat := by simp [hlen]
      have hlenByte : BitVec.ofNat 8 (rest.take len.toNat).length = len := by rw [hbody, BitVec.ofNat_toNat, BitVec.setWidth_eq]
      refine ⟨t, rest.take len.toNat, by omega, ?_, (Except.ok.inj h).symm⟩
      rw [packetBytes_eq_cons, packetCovered, packetHeader, hlenByte, ← h0, ← h1, ← h2]
      simp only [List.cons_append, List.nil_append, ← hsum, List.take_append_drop]

/-! ## Round trips -/

/-- Settles O2: a command is its two fields; a packet is read back as its form, and a `PKT` has no other form. -/
theorem decodeOfEncode : Obligations.DecodeOfEncode := by
  intro i hi
  cases i with
  | pkt t body =>
    simp only [wellFormed, bodyFits, Bool.and_eq_true, Bool.not_eq_true', decide_eq_true_eq] at hi
    obtain ⟨hfit, hown⟩ := hi
    exact (decodePacket_packetBytes t hfit).trans (congrArg _ (packetForm_eq_pkt hown))
  | pktMFrag k text =>
    obtain ⟨-, -, htext⟩ := wellFormed_pktMFrag_iff.1 hi
    have hfit : (fragBody k text).length ≤ 255 := by simp [fragBody]; omega
    exact (decodePacket_packetBytes typeM hfit).trans (congrArg _ (packetForm_fragBody hi))
  | pktMReset => exact decodePacket_packetBytes typeM (body := resetBody) (by decide)
  | pktT => exact decodePacket_packetBytes typeT (body := []) (by decide)
  | _ => simp [encode, decode, decodeCommand]

/-- Settles O3: a word decodes to a command of its own fields, and bytes that decode are the packet of a type and a body. -/
theorem encodeOfDecode : Obligations.EncodeOfDecode := by
  intro p i h
  cases p with
  | command w =>
    obtain rfl : decodeCommand w = i := Except.ok.inj h
    exact ⟨wellFormed_decodeCommand w, encode_decodeCommand w⟩
  | packet bytes =>
    obtain ⟨t, body, hfit, rfl, rfl⟩ := decodePacket_ok h
    exact packetForm_encodes t hfit

/-! ## The command table and the examples (R82, R96, R212) -/

/-- The mask 0xF00 keeps the operation code. -/
theorem opField_of_mask {w m : CmdWord} (h : w &&& 0xF00#12 = m) : opField w = opField m := by
  rw [← h]
  simp only [opField, BitVec.extractLsb'_and]
  exact (BitVec.and_allOnes (x := w.extractLsb' 8 4)).symm

/-- A word that matches a command's row is the encoding of that command with the word's operand byte. -/
theorem decodeCommand_of_mask {w m : CmdWord} {i : Instr} (h : w &&& 0xF00#12 = m) (hi : wellFormed i = true)
    (he : encode i = .command (commandWord (opField m) (dField w))) : decodeCommand w = i := by
  have hdecode := decodeOfEncode i hi
  rw [he, ← opField_of_mask h, commandWord_fields] at hdecode
  exact Except.ok.inj hdecode

/-- Settles O1: each row's command has the match's operation code, so a word that matches is its encoding. -/
theorem commandTableDecodes : Obligations.CommandTableDecodes := by
  intro w
  refine ⟨(commandWord_fields w).symm, ?_⟩
  and_intros
  all_goals exact (decodeCommand_of_mask · rfl rfl)

/-- Settles O4: each is the encoding of its instruction. -/
theorem writtenOutWordsDecode : Obligations.WrittenOutWordsDecode :=
  ⟨decodeOfEncode (.pkPush 0x4D#8) rfl, decodeOfEncode (.txSend 0x00#8) rfl, decodeOfEncode (.reservedA 0x37#8) rfl,
    decodeOfEncode .pktMReset rfl, decodeOfEncode .pktT rfl, decodeOfEncode (.pktMFrag 1#4 [0x41#8]) rfl,
    decodeOfEncode (.pkt 0x49#8 []) rfl⟩

end Sys2Proof

namespace Sys2Proof.Machine

/-! ## The packets of a message (R223, R224) -/

theorem fragmentText_length (m : List Byte) (i : Nat) : (fragmentText m i).length = min (12 * (i + 1)) m.length - 12 * i := by
  simp [fragmentText, slice, fragmentSize]

/-- The packet of fragment `i` (0-based) is the encoding of the fragment form with index `i + 1`. -/
theorem encode_pktMFrag_eq_fragmentPacket (m : List Byte) {i : Nat} (hi : i < 15) :
    encode (.pktMFrag (BitVec.ofNat 4 (i + 1)) (fragmentText m i)) = .packet (fragmentPacket m i) := by
  have hindex : (BitVec.ofNat 4 (i + 1)).toNat = i + 1 := by simp; omega
  rw [encode, fragBody, subType, hindex]
  rfl

/-- Settles O59: a message of at most 180 bytes has at most 15 fragments, each with 1 to 12 bytes and so well-formed. -/
theorem messageFragmentsAreTheFragmentForm : Obligations.MessageFragmentsAreTheFragmentForm := by
  intro m i hm hi
  have hlen : 1 ≤ (fragmentText m i).length ∧ (fragmentText m i).length ≤ 12 := by
    rw [fragmentText_length]; omega
  have hindex : BitVec.ofNat 4 (i + 1) ≠ 0#4 := by
    simp [← BitVec.toNat_inj]; omega
  rw [← encode_pktMFrag_eq_fragmentPacket m (by omega)]
  exact ⟨decodeOfEncode _ (wellFormed_pktMFrag_iff.2 ⟨hindex, hlen⟩), rfl, hlen⟩

end Sys2Proof.Machine
end

section
/-! Packets put into the buffer (30_encoding.md R97): what a sequence of command words does, presented one after another or tick
by tick, and the wire packet forms that stand for such sequences. -/

namespace Sys2Proof.Machine

variable {s u : State}

/-! ## One command word -/

/-- The state with `q` as the samples to come. -/
def withInputs (q : List Inputs) (s : State) : State := { s with inq := q }

theorem withInputs_eq_self {q : List Inputs} (h : s.inq = q) : withInputs q s = s := by
  rw [withInputs, ← h]

theorem ifRoom_withInputs {f : State → State} {q : List Inputs} (hf : f (withInputs q s) = withInputs q (f s)) :
    ifRoom f (withInputs q s) = withInputs q (ifRoom f s) := by
  rw [ifRoom, ifRoom, apply_ite (withInputs q), hf]
  rfl

theorem pushSummed_withInputs (d : Byte) {q : List Inputs} : pushSummed d (withInputs q s) = withInputs q (pushSummed d s) :=
  ifRoom_withInputs (f := fun s => addSum d (appendByte d s)) rfl

/-- No command reads or changes the samples to come. -/
theorem commandEffect_withInputs (i : Instr) (q : List Inputs) (s : State) :
    commandEffect i (withInputs q s) = withInputs q (commandEffect i s) := by
  cases i with
  | pbPush d => exact ifRoom_withInputs rfl
  | pkPush d => exact pushSummed_withInputs d
  | pkFin d => exact pushSummed_withInputs (checksumOperand s)
  | _ => rfl

theorem commandEffect_pkts (i : Instr) (s : State) : (commandEffect i s).pkts = s.pkts := by
  cases i with
  | pbPush d | pkPush d | pkFin d => exact ifRoom_keeps State.pkts rfl rfl
  | _ => rfl

/-- R166: no command but `TX.SEND` leaves IDLE. -/
theorem commandEffect_idle {i : Instr} (hi : ∀ d, i ≠ .txSend d) (hp : s.phase = .idle) :
    (commandEffect i s).phase = .idle := by
  cases i with
  | txSend d => exact absurd rfl (hi d)
  | pbPush d | pkPush d | pkFin d => exact (ifRoom_keeps State.phase rfl rfl).trans hp
  | _ => exact hp

/-- R82: only a word with operation code 0x7 is `TX.SEND`. -/
theorem decodeCommand_ne_txSend {w : CmdWord} (hw : opField w ≠ 0x7#4) (d : Byte) : decodeCommand w ≠ .txSend d := by
  intro h
  have he := encode_decodeCommand w
  rw [h] at he
  obtain rfl := Presented.command.inj he
  exact hw (opField_commandWord 0x7#4 d)

/-- The step that finds the word on the port, with no packet of the host waiting. -/
theorem step_word (hp : s.phase = .idle) (hk : s.pkts = []) (w : CmdWord) (q : List Inputs) :
    step (withInputs (commandSample w :: q) s) = .next (withInputs q (commandEffect (decodeCommand w) s)) :=
  calc step (withInputs (commandSample w :: q) s)
    _ = tick (commandSample w) (withInputs q s) := step_queued (.inr hk) rfl
    _ = exec (decodeCommand w) (withInputs q s) := tick_command hp rfl rfl rfl
    _ = .next (commandEffect (decodeCommand w) (withInputs q s)) := (exec_decodeCommand w _).trans (accepted_idle _ hp)
    _ = .next (withInputs q (commandEffect (decodeCommand w) s)) := congrArg _ (commandEffect_withInputs _ q s)

/-! ## Sequences of command words -/

/-- The state after the words, each accepted at the state the one before it left. -/
def commandEffects (ws : List CmdWord) (s : State) : State := ws.foldl (fun s w => commandEffect (decodeCommand w) s) s

/-- Words without `TX.SEND` are accepted one after another. -/
theorem execAll_words {ws : List CmdWord} (hw : ∀ w ∈ ws, opField w ≠ 0x7#4) (hp : s.phase = .idle) :
    execAll (ws.map decodeCommand) s = .next (commandEffects ws s) := by
  induction ws generalizing s with
  | nil => rfl
  | cons w ws ih =>
    obtain ⟨hw, hws⟩ := List.forall_mem_cons.1 hw
    rw [List.map_cons, execAll, exec_decodeCommand, accepted_idle _ hp]
    exact ih hws (commandEffect_idle (decodeCommand_ne_txSend hw) hp)

/-- Presented tick by tick, with no packet of the host waiting, they have the same effects. -/
theorem run_words {ws : List CmdWord} (hw : ∀ w ∈ ws, opField w ≠ 0x7#4) (hp : s.phase = .idle) (hk : s.pkts = [])
    (rest : List Inputs) :
    run ws.length (withInputs (ws.map commandSample ++ rest) s) = .next (withInputs rest (commandEffects ws s)) := by
  induction ws generalizing s with
  | nil => rfl
  | cons w ws ih =>
    obtain ⟨hw, hws⟩ := List.forall_mem_cons.1 hw
    rw [List.length_cons, run, List.map_cons, List.cons_append, step_word hp hk]
    exact ih hws (commandEffect_idle (decodeCommand_ne_txSend hw) hp) ((commandEffect_pkts _ s).trans hk)

/-! ## LOAD (R97, R98) -/

theorem loadWords_no_send (p : List Byte) : ∀ w ∈ loadWords p, opField w ≠ 0x7#4 := by
  simp [loadWords, plainWord]

theorem commandEffects_loadWords {p : List Byte} (hn : p.length ≤ 261) (s : State) :
    commandEffects (loadWords p) s = { s with pb := s.pb.writeAll 0 p, pbLen := BitVec.ofNat 9 p.length } := by
  have hpushes : commandEffects (loadWords p) s = p.foldl (fun s d => pushRaw d s) (clearBuffer s) := by
    simp [commandEffects, loadWords, plainWord, decodeCommand, commandEffect, List.foldl_map]
  rw [hpushes, foldl_pushRaw p _ (by simpa [pbCap] using hn)]
  simp [clearBuffer]

/-- A buffer filled from its start holds what it was filled with. -/
theorem validBytes_of_writeAll {m : Memory} {bs : List Byte} (hpb : u.pb = m.writeAll 0 bs) (hl : u.pbLen.toNat = bs.length) :
    validBytes u = bs := by
  rw [validBytes, hpb, hl, Memory.bytesFrom_writeAll]

/-- Settles O21: `LOAD` is `PB.CLR` and pushes that all fit. -/
theorem loadFillsTheBuffer : Obligations.LoadFillsTheBuffer := by
  intro p s hp hn
  have hl : (BitVec.ofNat 9 p.length).toNat = p.length := by simp; omega
  refine ⟨_, execAll_words (loadWords_no_send p) hp, ?_⟩
  rw [commandEffects_loadWords hn]
  exact ⟨validBytes_of_writeAll rfl hl, hl, fun a ha => Memory.read_writeAll_other p s.pb (.inr (by omega)), rfl⟩

/-! ## The wire packet forms (R86, R91, R93, R94) -/

/-- `SEND_PACKET` in IDLE, as one whole state. -/
theorem sendPacket_idle (P : Params) (t : Byte) {body : List Byte} (hp : s.phase = .idle) (hb : body.length ≤ 255) :
    sendPacket P t body s = .next (sessionOnPacket P t body s) := by
  rw [sendPacket_accepted P t hb, accepted_idle _ hp, encodeIntoBuffer_eq t body hb]
  rfl

theorem sendPacket_busy (P : Params) (t : Byte) {body : List Byte} (hp : s.phase ≠ .idle) (hb : body.length ≤ 255) :
    sendPacket P t body s = .next s := by
  rw [sendPacket_accepted P t hb, accepted_busy _ hp]

theorem exec_pkt (t : Byte) (body : List Byte) (s : State) : exec (.pkt t body) s = sendPacket Config.params t body s := rfl

/-- The form of a fragment, with the sub-type as R91 writes it. -/
theorem exec_pktMFrag (k : BitVec 4) (text : List Byte) (s : State) : exec (.pktMFrag k text) s =
    sendPacket Config.params 0x4D#8 ([0x00#8, 0x01#8, BitVec.ofNat 8 (16 * k.toNat + 1)] ++ text) s := by
  rw [Nat.mul_comm]
  rfl

theorem exec_pktMReset (s : State) :
    exec .pktMReset s = sendPacket Config.params 0x4D#8 [0x00#8, 0x01#8, 0x00#8] s := rfl

theorem exec_pktT (s : State) : exec .pktT s = sendPacket Config.params 0x54#8 [] s := rfl

/-- Settles O22: each form is `SEND_PACKET` of its type and body; a fragment's body is three bytes longer than its text. -/
theorem packetFormSendsItsPacket : Obligations.PacketFormSendsItsPacket := by
  refine ⟨fun t body s => ?pkt, fun k text s => ?fragment, fun s => ?fixed⟩
  case pkt =>
    rw [exec_pkt]
    exact ⟨sendPacket_idle _ t, sendPacket_busy _ t, fun hb => sendPacket_refused _ t hb.not_ge⟩
  case fragment =>
    rw [exec_pktMFrag]
    exact ⟨fun hp ht => sendPacket_idle _ _ hp (by simp; omega), fun hp ht => sendPacket_busy _ _ hp (by simp; omega),
      fun ht => sendPacket_refused _ _ (by simp; omega)⟩
  case fixed =>
    rw [exec_pktMReset, exec_pktT]
    exact ⟨fun hp => ⟨sendPacket_idle _ _ hp (by simp), sendPacket_idle _ _ hp (by simp)⟩,
      fun hp => ⟨sendPacket_busy _ _ hp (by simp), sendPacket_busy _ _ hp (by simp)⟩⟩

/-- Settles O23: each form is `SEND_PACKET` of its type and body, which stores the packet from index 0 on. -/
theorem packetFormFrame : Obligations.PacketFormFrame := by
  intro i t body s u hform hp h
  have hexec : exec i s = sendPacket Config.params t body s := by
    rcases hform with rfl | ⟨rfl, rfl, rfl⟩ | ⟨rfl, rfl, rfl⟩ | ⟨k, text, rfl, rfl, rfl⟩
    · exact exec_pkt t body s
    · exact exec_pktMReset s
    · exact exec_pktT s
    · exact exec_pktMFrag k text s
  rw [hexec] at h
  obtain ⟨hb, -⟩ := sendPacket_next h
  obtain rfl := Host.Outcome.next.inj ((sendPacket_idle Config.params t hp hb).symm.trans h)
  have hl : (BitVec.ofNat 9 (6 + body.length)).toNat = (packetBytes t body).length := by simp; omega
  exact ⟨validBytes_of_writeAll rfl hl, fun a ha => Memory.read_writeAll_other _ s.pb (.inr (by simpa using ha)),
    rfl, rfl, rfl, rfl, rfl, rfl⟩

/-! ## A packet form tick by tick (R97, R135) -/

theorem encodePacketWords_no_send (t : Byte) (body : List Byte) : ∀ w ∈ encodePacketWords t body, opField w ≠ 0x7#4 := by
  intro w hw
  simp only [encodePacketWords, List.mem_append, List.mem_cons, List.mem_map, List.not_mem_nil, or_false] at hw
  rcases hw with ((rfl | rfl) | ⟨b, -, rfl⟩) | rfl <;> simp [plainWord]

theorem encodePacketWords_length (t : Byte) (body : List Byte) : (encodePacketWords t body).length = 8 + body.length := by
  simp [encodePacketWords]; omega

theorem commandEffects_encodePacketWords (t : Byte) (body : List Byte) (s : State) :
    commandEffects (encodePacketWords t body) s = encodeIntoBuffer t body s := by
  simp [commandEffects, encodePacketWords, plainWord, decodeCommand, commandEffect, List.foldl_map, encodeIntoBuffer, pushCovered]

/-- Settles O24: after the `8 + L` words of `ENCODE_PACKET` the buffer is filled, and the last step accepts `TX.SEND`. -/
theorem packetFormRefinesItsCommands : Obligations.PacketFormRefinesItsCommands := by
  intro t body rest s hp hk hb hq
  have hsamples : s.inq = (encodePacketWords t body).map commandSample ++ commandSample (plainWord 0x7#4) :: rest := by
    simpa [sendPacketWords] using hq
  have hfilled := run_words (encodePacketWords_no_send t body) hp hk (commandSample (plainWord 0x7#4) :: rest)
  rw [withInputs_eq_self hsamples, encodePacketWords_length, commandEffects_encodePacketWords] at hfilled
  have hidle : (encodeIntoBuffer t body s).phase = .idle := by rw [encodeIntoBuffer_eq t body hb]; exact hp
  have hpkts : (encodeIntoBuffer t body s).pkts = [] := by rw [encodeIntoBuffer_eq t body hb]; exact hk
  calc run (9 + body.length) s
    _ = run (8 + body.length + 1) s := by rw [Nat.add_right_comm]
    _ = step (withInputs (commandSample (plainWord 0x7#4) :: rest) (encodeIntoBuffer t body s)) := run_succ_last hfilled
    _ = .next (withInputs rest (startSession Config.params (encodeIntoBuffer t body s))) := step_word hidle hpkts _ rest
    _ = .next (sessionOnPacket Config.params t body (withInputs rest s)) := by rw [encodeIntoBuffer_eq t body hb]; rfl
    _ = exec (.pkt t body) (withInputs rest s) := (sendPacket_idle (s := withInputs rest s) _ t hp hb).symm

end Sys2Proof.Machine
end

section
/-! The checksum accumulator (40_checksum.md): the inversion (R112, R115), the commands `CS.CLR` and `CS.ADD` (R110, R111, R114,
R116), which ticks write `SUM` (R118), and the frame of the commands that store nothing. -/

namespace Sys2Proof

/-! ## The inversion (R112, R115) -/

@[simp] theorem neg8_toNat (a : Byte) : (neg8 a).toNat = (256 - a.toNat) % 256 := by
  simp [neg8]

/-- Settles O8: the byte is below 256 already, and the two's-complement negation is the complement plus 1. -/
theorem inversionHasThreeForms : Obligations.InversionHasThreeForms := by
  refine fun a => ⟨?document, ?subtraction, ?complement⟩
  case document => rw [Nat.mod_eq_of_lt a.isLt, neg8]
  case subtraction => rw [neg8_eq_neg, BitVec.zero_sub]
  case complement => rw [neg8_eq_neg, BitVec.neg_eq_not_add, ← BitVec.xor_allOnes]; rfl

/-- R116: the checksum is the one byte that brings the sum of a sequence to 0 modulo 256. -/
theorem docSum_append_mod_eq_zero_iff (bs : List Byte) (c : Byte) :
    docSum (bs ++ [c]) % 256 = 0 ↔ c = docChecksum bs := by
  have hc := c.isLt
  have hk : (docChecksum bs).toNat = (256 - docSum bs % 256) % 256 := by simp [docChecksum]
  rw [← BitVec.toNat_inj, hk, docSum_append, docSum_cons, docSum_nil]
  omega

end Sys2Proof

namespace Sys2Proof.Machine

variable {s : State} {i : Instr}

/-- Settles O7: `chk` is the inversion of `SUM`. -/
theorem chkPortInvertsSum : Obligations.ChkPortInvertsSum := by
  intro s
  have hchk : (outputs s).chk.toNat = (256 - s.sum.toNat) % 256 := neg8_toNat s.sum
  exact ⟨rfl, hchk, by omega⟩

/-! ## CS.CLR and CS.ADD (R110, R111) -/

theorem exec_csClr (d : Byte) (s : State) : exec (.csClr d) s = accepted clearSum s := rfl

theorem exec_csAdd (d : Byte) (s : State) : exec (.csAdd d) s = accepted (addSum d) s := rfl

/-- Settles O5: `SUM = 0` is its own inversion. -/
theorem csClrClearsSum : Obligations.CsClrClearsSum := by
  intro d s
  have hchk : neg8 0x00#8 = 0x00#8 := by decide
  rw [exec_csClr]
  exact ⟨Laws.Format.csClr d rfl, fun hp => ⟨accepted_idle _ hp, rfl, hchk⟩, accepted_busy _⟩

/-- Settles O6: the sum of two bytes is the addition modulo 256. -/
theorem csAddAddsModulo256 : Obligations.CsAddAddsModulo256 := by
  intro d s
  have hsum : BitVec.ofNat 8 ((s.sum.toNat + d.toNat) % 256) = s.sum + d :=
    BitVec.eq_of_toNat_eq (by simp [BitVec.toNat_add])
  rw [exec_csAdd, hsum]
  exact ⟨Laws.Format.csAdd d rfl, accepted_idle _, accepted_busy _⟩

/-! ## Sequences of CS.ADD (R114, R116) -/

/-- `CS.ADD` of the bytes in turn folds them into `SUM` and changes nothing else. -/
theorem execAll_csAdd (bs : List Byte) (hp : s.phase = .idle) :
    execAll (bs.map .csAdd) s = .next { s with sum := bs.foldl (fun acc b => acc + b) s.sum } := by
  induction bs generalizing s with
  | nil => rfl
  | cons b bs ih =>
    rw [List.map_cons, execAll, exec_csAdd, accepted_idle _ hp]
    exact ih (s := addSum b s) hp

/-- After `CS.CLR` the fold starts from 0, so it is the document's sum. -/
theorem execAll_csClr_csAdd (d : Byte) (bs : List Byte) (hp : s.phase = .idle) :
    execAll (.csClr d :: bs.map .csAdd) s = .next { s with sum := BitVec.ofNat 8 (docSum bs) } := by
  have hadd := execAll_csAdd (s := clearSum s) bs hp
  rw [foldl_add_eq_docSum, clearSum_sum, BitVec.zero_add] at hadd
  rw [execAll, exec_csClr, accepted_idle _ hp]
  exact hadd

/-- Settles O9: the accumulated sum is the document's, which a permutation leaves as it is. -/
theorem accumulatorIsDocumentSum : Obligations.AccumulatorIsDocumentSum := by
  intro d bs cs s hp
  have hmod : BitVec.ofNat 8 (docSum bs % 256) = BitVec.ofNat 8 (docSum bs) := BitVec.eq_of_toNat_eq (by simp)
  rw [execAll_csClr_csAdd d bs hp, execAll_csClr_csAdd d cs hp, hmod]
  exact ⟨rfl, fun h => by rw [docSum_perm h]⟩

/-- Settles O10: `chk` shows the document's checksum of the accumulated bytes, and that is the one byte that completes them. -/
theorem checksumInvariantAndUniqueness : Obligations.ChecksumInvariantAndUniqueness := by
  intro d bs s t hp h
  have hchk : (outputs t).chk = docChecksum bs := by
    rw [execAll_csClr_csAdd d bs hp] at h
    cases h
    exact (docChecksum_eq_neg8 bs).symm
  rw [hchk]
  exact ⟨(docSum_append_mod_eq_zero_iff bs _).2 rfl, fun c => (docSum_append_mod_eq_zero_iff bs c).1⟩

/-! ## The writers of SUM (R118) -/

/-- A framer push that is dropped leaves `SUM` alone (R134). -/
theorem pushSummed_sum_changed {d : Byte} (h : (pushSummed d s).sum ≠ s.sum) : s.pbLen.toNat < pbCap := by
  by_contra hfull
  exact h (by rw [pushSummed_full d hfull, setOverflow_sum])

/-- The four commands that can change `SUM`, the two framer pushes only where there is room. -/
theorem commandEffect_sum_changed (h : (commandEffect i s).sum ≠ s.sum) :
    ∃ d, i = .csClr d ∨ i = .csAdd d ∨ (s.pbLen.toNat < pbCap ∧ (i = .pkPush d ∨ i = .pkFin d)) := by
  cases i with
  | csClr d => exact ⟨d, .inl rfl⟩
  | csAdd d => exact ⟨d, .inr (.inl rfl)⟩
  | pkPush d => exact ⟨d, .inr (.inr ⟨pushSummed_sum_changed h, .inl rfl⟩)⟩
  | pkFin d => exact ⟨d, .inr (.inr ⟨pushSummed_sum_changed h, .inr rfl⟩)⟩
  | pbPush d => exact absurd (ifRoom_keeps State.sum rfl rfl) h
  | _ => exact absurd rfl h

/-- Settles O11: beside a reset only an accepted command touches `SUM`, and `commandEffect_sum_changed` names the commands. -/
theorem sumHasFiveWriters : Obligations.SumHasFiveWriters := by
  intro x s t h hne
  rcases tick_bufferAndFlags h with ⟨hr, -⟩ | ⟨hr, ⟨hp, hv⟩, rfl⟩ | ⟨-, -, -, -, hsum, -⟩
  · exact .inl hr
  · exact .inr ⟨hr, hp, hv, commandEffect_sum_changed hne⟩
  · exact absurd hsum hne

/-! ## The commands that store nothing -/

/-- An instruction that is written as a command word has its effect where it is accepted, and none elsewhere (R213, R214). -/
theorem exec_command_next {t : State} {w : CmdWord} (h : exec i s = .next t) (hw : encode i = .command w) :
    t = commandEffect i s ∨ t = s := by
  have haccepted : exec i s = accepted (commandEffect i) s := by
    cases i with
    | pkt | pktMFrag | pktMReset | pktT => cases hw
    | _ => rfl
  rw [haccepted] at h
  exact (accepted_next h).imp And.right And.right

/-- Settles O18: a command that is not accepted keeps the whole state; of an accepted one the field laws of its effect say what
it keeps. -/
theorem nonStoringCommandFrame : Obligations.NonStoringCommandFrame := by
  intro d i s t hi h
  rcases hi with rfl | rfl | rfl | rfl | rfl | rfl | rfl | rfl | rfl | rfl | rfl | rfl | rfl
  all_goals
    rcases exec_command_next h rfl with rfl | rfl
    · simp [commandEffect]
    · simp

end Sys2Proof.Machine
end

section
/-! The packet buffer and the framer (41_packet_buffer_framer.md): `PB.CLR` (R130), the three pushes, where there is room and where
there is none (R131 to R134), and the packet that `ENCODE_PACKET` builds of them (R135). -/

namespace Sys2Proof.Machine

variable {d : Byte} {i : Instr} {f : State → State} {s t : State}

/-! ## A push presented -/

theorem accepted_ifRoom_room (f : State → State) (hp : s.phase = .idle) (h : s.pbLen.toNat < pbCap) :
    accepted (ifRoom f) s = .next (f s) := by
  rw [accepted_idle _ hp, ifRoom_room f h]

/-- R134: without room the push is dropped whole. -/
theorem accepted_ifRoom_full (f : State → State) (hp : s.phase = .idle) (h : ¬ s.pbLen.toNat < pbCap) :
    accepted (ifRoom f) s = .next { s with fOvf := true } := by
  rw [accepted_idle _ hp, ifRoom_full f h]
  rfl

/-- Everything a push presented can do. -/
theorem accepted_ifRoom_next (h : accepted (ifRoom f) s = .next t) :
    (s.phase ≠ .idle ∧ t = s) ∨ (¬ s.pbLen.toNat < pbCap ∧ t = setOverflow s) ∨
    (s.phase = .idle ∧ s.pbLen.toNat < pbCap ∧ t = f s) := by
  rcases accepted_next h with ⟨hp, rfl⟩ | hbusy
  · by_cases hr : s.pbLen.toNat < pbCap
    · exact .inr (.inr ⟨hp, hr, ifRoom_room f hr⟩)
    · exact .inr (.inl ⟨hr, ifRoom_full f hr⟩)
  · exact .inl hbusy

theorem exec_pbClr (d : Byte) (s : State) : exec (.pbClr d) s = accepted clearBuffer s := rfl

theorem exec_pbPush (d : Byte) (s : State) : exec (.pbPush d) s = accepted (ifRoom (appendByte d)) s := rfl

theorem exec_pkPush (d : Byte) (s : State) :
    exec (.pkPush d) s = accepted (ifRoom fun s => addSum d (appendByte d s)) s := rfl

theorem exec_pkFin (d : Byte) (s : State) : exec (.pkFin d) s =
    accepted (ifRoom fun s => addSum (checksumOperand s) (appendByte (checksumOperand s) s)) s := rfl

/-- The three storing commands as one: where there is room, a byte is appended and `SUM` written, by `PB.PUSH` with its own
value. -/
theorem exec_push_next (hi : i = .pbPush d ∨ i = .pkPush d ∨ i = .pkFin d) (h : exec i s = .next t) :
    (s.phase ≠ .idle ∧ t = s) ∨ (¬ s.pbLen.toNat < pbCap ∧ t = setOverflow s) ∨
    (s.phase = .idle ∧ s.pbLen.toNat < pbCap ∧
      ∃ b v, (i = .pbPush d → v = s.sum) ∧ t = { appendByte b s with sum := v }) := by
  have hpush : ∃ f, exec i s = accepted (ifRoom f) s ∧
      ∃ b v, (i = .pbPush d → v = s.sum) ∧ f s = { appendByte b s with sum := v } := by
    rcases hi with rfl | rfl | rfl
    · exact ⟨_, exec_pbPush d s, d, s.sum, fun _ => rfl, rfl⟩
    · exact ⟨_, exec_pkPush d s, d, s.sum + d, nofun, rfl⟩
    · exact ⟨_, exec_pkFin d s, checksumOperand s, s.sum + checksumOperand s, nofun, rfl⟩
  obtain ⟨f, hexec, b, v, hv, hf⟩ := hpush
  rcases accepted_ifRoom_next (hexec ▸ h) with hbusy | hfull | ⟨hp, hr, rfl⟩
  · exact .inl hbusy
  · exact .inr (.inl hfull)
  · exact .inr (.inr ⟨hp, hr, b, v, hv, hf⟩)

/-! ## PB.CLR, PB.PUSH, PK.PUSH and PK.FIN (R130 to R133) -/

/-- Settles O12: the effect writes `PB_LEN` alone. -/
theorem pbClrEmptiesBuffer : Obligations.PbClrEmptiesBuffer := by
  intro d s
  rw [exec_pbClr]
  exact ⟨Laws.Format.pbClr d rfl, accepted_idle _, accepted_busy _⟩

/-- Settles O13: a push with room appends at index `PB_LEN`, and the laws of a write say what is read afterwards. -/
theorem pbPushAppends : Obligations.PbPushAppends := by
  intro d s
  rw [exec_pbPush]
  exact ⟨Laws.Format.pbPush d rfl,
    fun hp hr => ⟨accepted_ifRoom_room _ hp hr, s.pb.read_write_same _ d, fun _ => s.pb.read_write_other d, pbLen_succ_toNat hr⟩,
    accepted_ifRoom_full _, accepted_busy _⟩

/-- Settles O14: a push with room appends, and the sum of two bytes is the addition modulo 256. -/
theorem pkPushAppendsAndAdds : Obligations.PkPushAppendsAndAdds := by
  intro d s
  have hsum : BitVec.ofNat 8 ((s.sum.toNat + d.toNat) % 256) = s.sum + d :=
    BitVec.eq_of_toNat_eq (by simp [BitVec.toNat_add])
  rw [exec_pkPush, hsum]
  exact ⟨Laws.Format.pkPush d rfl, accepted_ifRoom_room _, accepted_ifRoom_full _, accepted_busy _⟩

/-- Settles O15: the byte appended is the inversion of `SUM`, so the sum becomes 0. -/
theorem pkFinAppendsChecksum : Obligations.PkFinAppendsChecksum := by
  intro d s
  rw [exec_pkFin, ← add_neg8 s.sum]
  exact ⟨Laws.Format.pkFin d rfl, accepted_ifRoom_room _, accepted_ifRoom_full _, accepted_busy _⟩

/-! ## Overflow and the frame (R134) -/

/-- Settles O16: a full buffer drops each push; beside a reset only an accepted command touches `F_OVF`, and of those only
`ST.CLR` clears it; the effect of `TX.SEND` does not read the flag. -/
theorem overflowDropsPushWhole : Obligations.OverflowDropsPushWhole := by
  refine ⟨fun d s hp hl => ?dropped, fun x s t hf h ht => ?cleared, fun d s hp hf => ?send⟩
  case dropped =>
    have hfull : ¬ s.pbLen.toNat < pbCap := hl.not_lt
    rw [exec_pbPush, exec_pkPush, exec_pkFin]
    exact ⟨accepted_ifRoom_full _ hp hfull, accepted_ifRoom_full _ hp hfull, accepted_ifRoom_full _ hp hfull⟩
  case cleared =>
    rcases tick_bufferAndFlags h with ⟨hr, -⟩ | ⟨-, ⟨hp, hv⟩, rfl⟩ | ⟨-, -, -, -, -, hk, -⟩
    · exact .inl hr
    · exact .inr ⟨hp, hv, (commandEffect_fOvf_cleared hf).1 ht⟩
    · simp [hk, hf] at ht
  case send => exact ⟨startSession Config.params s, accepted_idle _ hp, rfl, hf⟩

/-- Settles O17: a push changes nothing, or `F_OVF` alone, or appends one byte and writes `SUM`. -/
theorem pushFrame : Obligations.PushFrame := by
  intro d i s t hi h
  rcases exec_push_next hi h with ⟨-, rfl⟩ | ⟨-, rfl⟩ | ⟨hp, hr, b, v, hv, rfl⟩
  case inl => simp
  case inr.inl => simp
  case inr.inr =>
    exact ⟨fun _ => s.pb.read_write_other b, fun hno => hno.elim (absurd hp) (absurd hr), hv,
      rfl, rfl, rfl, rfl, rfl, rfl, rfl, rfl, rfl, id, rfl, rfl, rfl, rfl⟩

/-! ## ENCODE_PACKET (R135) -/

/-- Settles O20: the words are accepted in turn, and their effect stores the packet from index 0 on. -/
theorem encodePacketBuildsThePacket : Obligations.EncodePacketBuildsThePacket := by
  intro t body s hp hb
  have hl : (BitVec.ofNat 9 (6 + body.length)).toNat = 6 + body.length := by simp; omega
  have hencode : encodePacket t body = .ok (packetBytes t body) := if_pos hb
  refine ⟨encodePacketWords_length t body, _, execAll_words (encodePacketWords_no_send t body) hp, ?_⟩
  rw [commandEffects_encodePacketWords, encodeIntoBuffer_eq t body hb, hencode]
  exact ⟨congrArg _ (validBytes_of_writeAll rfl (hl.trans (packetBytes_length t body).symm)), hl, rfl,
    fun a ha => Memory.read_writeAll_other _ s.pb (.inr (by simpa using ha)), rfl⟩

end Sys2Proof.Machine
end
section
/-! The ticks of the transmit sequencer (42_transmit_sequencer.md): which rule a tick follows (R168), what each rule does in each of
its cases (R160, R162, R164, R166), which inputs it reads and which phases it leads to (R167). -/

namespace Sys2Proof.Machine

variable {P : Params} {x : Inputs} {s t : State}

/-! ## The dispatch (R168) -/

theorem tick_rst (hr : x.rst = true) : tick x s = .next (resetRegisters s) := by simp [tick, hr]

theorem tick_idle (hr : x.rst = false) (hp : s.phase = .idle) : tick x s = idleTick x s := by simp [tick, hr, hp]

theorem tick_pre (hr : x.rst = false) (hp : s.phase = .pre) : tick x s = .next (preTick s) := by simp [tick, hr, hp]

theorem tick_write (hr : x.rst = false) (hp : s.phase = .write) : tick x s = writeTick Config.params x s := by
  simp [tick, hr, hp]

theorem tick_flush (hr : x.rst = false) (hp : s.phase = .flush) : tick x s = .next (flushTick Config.params x s) := by
  simp [tick, hr, hp]

theorem tick_post (hr : x.rst = false) (hp : s.phase = .post) : tick x s = .next (postTick s) := by simp [tick, hr, hp]

/-! ## The cases of each rule (R161, R162, R164 to R166) -/

theorem idleTick_noCommand (hv : x.cmdValid = false) : idleTick x s = .next s := by simp [idleTick, hv]

theorem idleTick_command (hv : x.cmdValid = true) : idleTick x s = exec (decodeCommand x.cmd) s := by simp [idleTick, hv]

theorem preTick_end (hg : s.gt = 1) : preTick s = { s with phase := .write, gt := 0 } := if_pos hg

theorem preTick_count (hg : s.gt ≠ 1) : preTick s = { s with gt := s.gt - 1 } := if_neg hg

theorem writeTick_fault (hf : x.chFault = true) : writeTick P x s = .next (raiseFault .writeFault x.chFcode s) := if_pos hf

theorem writeTick_handOver (hf : x.chFault = false) (hc : s.txcnt = s.pbLen) :
    writeTick P x s = .next { s with phase := .flush, gt := P.flushTmo } := by simp [writeTick, hf, hc]

theorem writeTick_ready (hf : x.chFault = false) (hc : s.txcnt ≠ s.pbLen) (hy : x.chReady = true) :
    writeTick P x s = transferByte s := by simp [writeTick, hf, hc, hy]

theorem writeTick_transfer (hf : x.chFault = false) (hc : s.txcnt < s.pbLen) (hl : s.pbLen.toNat ≤ pbCap) (hy : x.chReady = true) :
    writeTick P x s = .next { s with taken := s.taken ++ [s.pb.byteAt s.txcnt.toNat], txcnt := s.txcnt + 1#9 } :=
  (writeTick_ready hf (BitVec.ne_of_lt hc) hy).trans (transferByte_offered hc hl)

theorem writeTick_notReady (hf : x.chFault = false) (hc : s.txcnt ≠ s.pbLen) (hy : x.chReady = false) :
    writeTick P x s = .next s := by simp [writeTick, hf, hc, hy]

theorem flushTick_fault (hf : x.chFault = true) : flushTick P x s = raiseFault .flushFault x.chFcode s := if_pos hf

theorem flushTick_drained (hf : x.chFault = false) (hi : x.chIdle = true) :
    flushTick P x s = { s with phase := .post, gt := P.postTicks } := by simp [flushTick, hf, hi]

theorem flushTick_timeout (hf : x.chFault = false) (hi : x.chIdle = false) (hn : P.flushTmo ≠ 0) (hg : s.gt = 1) :
    flushTick P x s = raiseFault .flushTimeout 0x00#8 s := by simp [flushTick, hf, hi, hn, hg]

theorem flushTick_count (hf : x.chFault = false) (hi : x.chIdle = false) (hn : P.flushTmo ≠ 0) (hg : s.gt ≠ 1) :
    flushTick P x s = { s with gt := s.gt - 1 } := by simp [flushTick, hf, hi, hn, hg]

theorem flushTick_wait (hf : x.chFault = false) (hi : x.chIdle = false) (hn : P.flushTmo = 0) : flushTick P x s = s := by
  simp [flushTick, hf, hi, hn]

theorem postTick_end (hg : s.gt = 1) : postTick s = endSession s := if_pos hg

theorem postTick_count (hg : s.gt ≠ 1) : postTick s = { s with gt := s.gt - 1 } := if_neg hg

/-! ## What is on offer (R35) -/

theorem chValid_eq_true_iff : chValid s = true ↔ s.phase = .write ∧ s.txcnt < s.pbLen := by simp [chValid]

/-- R172: outside WRITE nothing is on offer. -/
theorem chValid_of_phase_ne_write (hp : s.phase ≠ .write) : chValid s = false := by simp [chValid, hp]

theorem chValid_write (hp : s.phase = .write) : chValid s = decide (s.txcnt.toNat < s.pbLen.toNat) := by
  simp [chValid, hp, BitVec.lt_def]

/-- The byte on offer is `PB[TXCNT]`. -/
theorem chData_offered (hv : chValid s = true) : chData s = s.pb.byteAt s.txcnt.toNat := if_pos hv

/-! ## Totality (R168) -/

/-- A byte transfer at a buffer of at most 261 bytes reads no byte outside it. -/
theorem transferByte_total (hl : s.pbLen.toNat ≤ pbCap) : ∃ t, transferByte s = .next t := by
  by_cases hc : s.txcnt < s.pbLen
  · exact ⟨_, transferByte_offered hc hl⟩
  · exact ⟨_, if_neg hc⟩

theorem idleTick_total (hp : s.phase = .idle) : ∃ t, idleTick x s = .next t := by
  cases hv : x.cmdValid with
  | false => exact ⟨s, idleTick_noCommand hv⟩
  | true => exact ⟨_, (idleTick_command hv).trans ((exec_decodeCommand x.cmd s).trans (accepted_idle _ hp))⟩

theorem writeTick_total (hl : s.pbLen.toNat ≤ pbCap) : ∃ t, writeTick P x s = .next t := by
  cases hf : x.chFault with
  | true => exact ⟨_, writeTick_fault hf⟩
  | false =>
    by_cases hc : s.txcnt = s.pbLen
    · exact ⟨_, writeTick_handOver hf hc⟩
    · cases hy : x.chReady with
      | true => exact writeTick_ready (P := P) hf hc hy ▸ transferByte_total hl
      | false => exact ⟨s, writeTick_notReady hf hc hy⟩

theorem tick_total (hl : s.pbLen.toNat ≤ pbCap) : ∃ t, tick x s = .next t := by
  cases hr : x.rst with
  | true => exact ⟨_, tick_rst hr⟩
  | false =>
    cases hp : s.phase with
    | idle => exact tick_idle hr hp ▸ idleTick_total hp
    | pre => exact ⟨_, tick_pre hr hp⟩
    | write => exact tick_write hr hp ▸ writeTick_total hl
    | flush => exact ⟨_, tick_flush hr hp⟩
    | post => exact ⟨_, tick_post hr hp⟩

/-- Settles O54: every phase's tick has a next state, WRITE's because the byte it hands over is inside the buffer. -/
theorem tickIsTotal : Obligations.TickIsTotal := fun _ _ hl =>
  ⟨tick_total hl, tick_rst, fun hr => ⟨tick_idle hr, tick_pre hr, tick_write hr, tick_flush hr, tick_post hr⟩⟩

/-! ## Each tick and TX.SEND (R160, R162, R164, R166) -/

theorem exec_txSend (d : Byte) (s : State) : exec (.txSend d) s = accepted (startSession Config.params) s := rfl

/-- R160: the session that an accepted `TX.SEND` starts. -/
theorem exec_txSend_idle {d : Byte} (hp : s.phase = .idle) (h : exec (.txSend d) s = .next t) :
    t = startSession Config.params s :=
  Host.Outcome.next.inj (h.symm.trans (accepted_idle _ hp))

/-- Settles O25: the effect of `TX.SEND` is `startSession`. -/
theorem txSendStartsSession : Obligations.TxSendStartsSession := fun d _ =>
  ⟨Laws.Format.txSend d rfl, accepted_idle _, accepted_busy _⟩

/-- Settles O42: an IDLE tick reads the command port alone. -/
theorem idleTickRunsTheCommand : Obligations.IdleTickRunsTheCommand := by
  intro x s hr hp
  rw [tick_idle hr hp]
  refine ⟨idleTick_noCommand, idleTick_command, fun _ _ _ _ => tick_idle hr hp, ?ready, ?offer, fun hs => ?direction⟩
  case ready => simp [outputs, cmdReady, hp]
  case offer => exact chValid_of_phase_ne_write (by simp [hp])
  case direction => simpa [hp] using hs.deIffBusy

/-- Settles O27: `writeTick` case by case; a byte on offer is transferred. -/
theorem writeTickCases : Obligations.WriteTickCases := by
  intro x s hr hp
  rw [tick_write hr hp]
  refine ⟨chValid_write hp, fun hc => ?_, writeTick_fault, writeTick_handOver,
    fun hf hc hl hy => writeTick_transfer hf (BitVec.lt_def.2 hc) hl hy, writeTick_notReady⟩
  exact chData_offered (chValid_eq_true_iff.2 ⟨hp, BitVec.lt_def.2 hc⟩)

/-- Settles O31: `flushTick` case by case. -/
theorem flushTickCases : Obligations.FlushTickCases := fun _ _ _ hp =>
  ⟨chValid_of_phase_ne_write (by simp [hp]), fun hr => tick_flush hr hp, flushTick_fault, flushTick_drained,
    flushTick_timeout, flushTick_count, flushTick_wait⟩

/-! ## The table of R167 -/

/-- R166, R167: a command leads from IDLE to PRE if it is `TX.SEND`, and stays in IDLE otherwise. -/
theorem commandEffect_idle_or_pre (hp : s.phase = .idle) (i : Instr) :
    (commandEffect i s).phase = .idle ∨ ((commandEffect i s).phase = .pre ∧ ∃ d, i = .txSend d) := by
  by_cases hd : ∃ d, i = .txSend d
  · obtain ⟨d, rfl⟩ := hd
    exact .inr ⟨rfl, d, rfl⟩
  · exact .inl (commandEffect_idle (not_exists.1 hd) hp)

/-- Settles O34: each rule's text names the inputs it reads; where it leads is read off the cases of a tick. -/
theorem phasesReadAndLeadWhereTheTableSays : Obligations.PhasesReadAndLeadWhereTheTableSays := by
  refine ⟨fun x y s hr => ⟨fun hp hv hc => ?idle, fun hp => ?guard, fun hp hf hc hy => ?write, fun hp hf hc hi => ?flush,
    fun h1 => (tick_rst h1).trans (tick_rst (hr ▸ h1)).symm⟩, fun x s t hr h => ?leads⟩
  case idle => simp only [tick, hr, hp, idleTick, hv, hc]
  case guard => rcases hp with hp | hp <;> simp only [tick, hr, hp]
  case write => simp only [tick, hr, hp, writeTick, hf, hc, hy]
  case flush => simp only [tick, hr, hp, flushTick, hf, hc, hi]
  case leads =>
    cases tick_case h with
    | reset hr' => simp [hr] at hr'
    | command _ hp hv => simpa [hp, hv] using commandEffect_idle_or_pre hp (decodeCommand x.cmd)
    | noCommand _ hp | preEnd _ hp | preCount _ hp | writeFault _ hp | handOver _ hp | transfer _ hp | overrun _ hp
    | notReady _ hp | flushFault _ hp | drained _ hp | timeout _ hp | flushCount _ hp | flushWait _ hp | postEnd _ hp
    | postCount _ hp => simp [hp]

end Sys2Proof.Machine
end

section
/-! Byte transfers (42_transmit_sequencer.md R163, R171, R172): what the channel is given, and with the bus driven. -/

namespace Sys2Proof.Machine

variable {x : Inputs} {s t : State}

/-- No command gives the channel a byte. -/
theorem commandEffect_taken (i : Instr) (s : State) : (commandEffect i s).taken = s.taken := by
  cases i with
  | pbPush d | pkPush d | pkFin d => exact ifRoom_keeps State.taken rfl rfl
  | _ => rfl

/-- R163: the conditions under which a tick transfers a byte. -/
def Transfers (x : Inputs) (s : State) : Prop :=
  s.phase = .write ∧ s.txcnt.toNat < s.pbLen.toNat ∧ x.rst = false ∧ x.chFault = false ∧ x.chReady = true

theorem Transfers.chValid : Transfers x s → chValid s = true
  | ⟨hp, hc, _⟩ => chValid_eq_true_iff.2 ⟨hp, BitVec.lt_def.2 hc⟩

/-- R163: a tick transfers the byte on offer, and changes nothing else but the count, or the channel takes nothing. -/
theorem tick_transfer (h : tick x s = .next t) :
    (Transfers x s ∧ s.txcnt.toNat < pbCap ∧ t = { s with taken := s.taken ++ [chData s], txcnt := s.txcnt + 1#9 }) ∨
    (¬ Transfers x s ∧ t.taken = s.taken) := by
  cases tick_case h with
  | transfer hr hp hf hy hc hi =>
    have hx : Transfers x s := ⟨hp, BitVec.lt_def.1 hc, hr, hf, hy⟩
    exact .inl ⟨hx, hi, by rw [chData_offered hx.chValid]⟩
  | command _ hp => exact .inr ⟨by simp [Transfers, hp], commandEffect_taken _ s⟩
  | reset hr => exact .inr ⟨by simp [Transfers, hr], rfl⟩
  | handOver _ _ _ hc => exact .inr ⟨by simp [Transfers, hc], rfl⟩
  | overrun _ _ _ _ hc => exact .inr ⟨fun ⟨_, hlt, _⟩ => hlt.not_gt (BitVec.lt_def.1 hc), rfl⟩
  | writeFault _ _ hf => exact .inr ⟨by simp [Transfers, hf], rfl⟩
  | notReady _ _ _ hy => exact .inr ⟨by simp [Transfers, hy], rfl⟩
  | noCommand _ hp | preEnd _ hp | preCount _ hp | flushFault _ hp | drained _ hp | timeout _ hp | flushCount _ hp
  | flushWait _ hp | postEnd _ hp | postCount _ hp => exact .inr ⟨by simp [Transfers, hp], rfl⟩

/-- Settles O28: by `tick_transfer`; `TXCNT` is inside the buffer, so it counts up without wrapping. -/
theorem byteTransferHappensExactly : Obligations.ByteTransferHappensExactly := by
  intro x s t h
  rcases tick_transfer h with ⟨hx, hi, rfl⟩ | ⟨hx, hk⟩
  · exact ⟨fun _ => ⟨rfl, txcnt_succ_toNat hi⟩, absurd hx⟩
  · exact ⟨fun hx' => absurd hx' hx, fun _ => hk⟩

/-- R162: with a byte left that the channel does not take, nothing changes. -/
theorem tick_notReady (hr : x.rst = false) (hp : s.phase = .write) (hf : x.chFault = false) (hc : s.txcnt ≠ s.pbLen)
    (hy : x.chReady = false) : tick x s = .next s :=
  (tick_write hr hp).trans (writeTick_notReady hf hc hy)

/-- R162: with no byte left, the hand-over to FLUSH. -/
theorem tick_handOver (hr : x.rst = false) (hp : s.phase = .write) (hf : x.chFault = false) (hc : s.txcnt = s.pbLen) :
    tick x s = .next { s with phase := .flush, gt := Config.params.flushTmo } :=
  (tick_write hr hp).trans (writeTick_handOver hf hc)

/-- R163: a byte on offer that the channel takes. -/
theorem tick_taken (hr : x.rst = false) (hp : s.phase = .write) (hf : x.chFault = false) (hc : s.txcnt < s.pbLen)
    (hl : s.pbLen.toNat ≤ pbCap) (hy : x.chReady = true) :
    tick x s = .next { s with taken := s.taken ++ [s.pb.byteAt s.txcnt.toNat], txcnt := s.txcnt + 1#9 } :=
  (tick_write hr hp).trans (writeTick_transfer hf hc hl hy)

/-- Settles O29: `DE = 1` in WRITE (R38 (a)), and neither a transfer nor a wait changes it. -/
theorem offerStandsUntilTaken : Obligations.OfferStandsUntilTaken := by
  intro x s t hs h
  have hde : chValid s = true → s.phase = .write ∧ s.de = true := fun hv => by
    have hp := (chValid_eq_true_iff.1 hv).1
    exact ⟨hp, hs.deIffBusy.2 (by simp [hp])⟩
  refine ⟨hde, fun hne => ?taken, fun hv hr hf hy => ?stands⟩
  case taken =>
    rcases tick_transfer h with ⟨hx, -, rfl⟩ | ⟨-, hk⟩
    · obtain ⟨-, hd⟩ := hde hx.chValid
      exact ⟨hx.chValid, hd, hd⟩
    · exact absurd hk hne
  case stands =>
    obtain ⟨hp, hc⟩ := chValid_eq_true_iff.1 hv
    obtain rfl := Host.Outcome.next.inj ((tick_notReady hr hp hf (BitVec.ne_of_lt hc) hy).symm.trans h)
    exact ⟨hv, rfl⟩

end Sys2Proof.Machine
end

section
/-! Runs of ticks of a session (42_transmit_sequencer.md): the guard phases (R161, R165), the channel that withholds (R183) and the
shortest session (R170). -/

namespace Sys2Proof.Machine

variable {p : Inputs → Prop} {k m n : Nat} {q : List Inputs} {s t u : State}

/-! ## The samples of the ticks to come -/

/-- At least `n` samples are queued, and each of the first `n` is one of `p`. -/
def NextSamples (p : Inputs → Prop) (n : Nat) (q : List Inputs) : Prop := n ≤ q.length ∧ ∀ x ∈ q.take n, p x

theorem NextSamples.add_iff : NextSamples p (m + n) q ↔ NextSamples p m q ∧ NextSamples p n (q.drop m) := by
  simp only [NextSamples, List.take_add, List.forall_mem_append, List.length_drop]
  constructor
  · rintro ⟨hl, hm, hn⟩
    exact ⟨⟨by omega, hm⟩, by omega, hn⟩
  · rintro ⟨⟨hm, hpm⟩, hn, hpn⟩
    exact ⟨by omega, hpm, hpn⟩

theorem NextSamples.mono {p' : Inputs → Prop} (h : NextSamples p n q) (hp : ∀ x, p x → p' x) : NextSamples p' n q :=
  ⟨h.1, fun x hx => hp x (h.2 x hx)⟩

/-- While a session runs, the step after `k` of the samples is a tick with the next of them. -/
theorem NextSamples.step (h : NextSamples p n q) (hk : k < n) (hb : s.phase ≠ .idle) :
    ∃ x, p x ∧ step { s with inq := q.drop k } = tick x { s with inq := q.drop (k + 1) } := by
  have hl : k < q.length := hk.trans_le h.1
  exact ⟨q[k], h.2 _ (List.mem_take_iff_getElem.2 ⟨k, by omega, rfl⟩), step_busy_queued hb (drop_eq_cons hl)⟩

/-! ## Stretches of a session -/

/-- The states `f 0, f 1, …` are those of a run. -/
theorem run_of_steps {f : Nat → State} (h : ∀ k, k < n → step (f k) = .next (f (k + 1))) (hk : k ≤ n) :
    run k (f 0) = .next (f k) := by
  induction k with
  | zero => rfl
  | succ k ih => rw [run_succ_last (ih (by omega)), h k hk]

/-- `n` steps lead from `s` to `t`, each taken in a session with the bus driven. -/
def Drives (n : Nat) (s t : State) : Prop :=
  (∀ k, k < n → ∃ u, run k s = .next u ∧ u.phase ≠ .idle ∧ u.de = true) ∧ run n s = .next t

theorem Drives.trans (h : Drives m s t) (h' : Drives n t u) : Drives (m + n) s u := by
  refine ⟨fun k hk => ?_, (run_add n h.2).trans h'.2⟩
  by_cases hm : k < m
  · exact h.1 k hm
  · obtain ⟨j, rfl⟩ := Nat.exists_eq_add_of_le (Nat.le_of_not_lt hm)
    rw [run_add j h.2]
    exact h'.1 j (by omega)

theorem Drives.of_steps {f : Nat → State} (h : ∀ k, k < n → step (f k) = .next (f (k + 1)))
    (hf : ∀ k, (f k).phase ≠ .idle ∧ (f k).de = true) : Drives n (f 0) (f n) :=
  ⟨fun k hk => ⟨f k, run_of_steps h hk.le, hf k⟩, run_of_steps h le_rfl⟩

/-- One tick of a session. -/
theorem Drives.of_tick (hb : s.phase ≠ .idle) (hd : s.de = true) (hq : NextSamples p 1 s.inq)
    (h : ∀ x, p x → tick x { s with inq := s.inq.drop 1 } = .next t) : Drives 1 s t := by
  obtain ⟨x, hx, hstep⟩ := hq.step (s := s) Nat.zero_lt_one hb
  refine ⟨fun k hk => ⟨s, by rw [Nat.lt_one_iff.1 hk, run_zero], hb, hd⟩, ?_⟩
  exact (run_succ_last (run_zero s)).trans (hstep.trans (h x hx))

/-! ## The guard phases (R161, R165) -/

/-- Without reset the phase `ph` counts `GT` down, and ends at `GT = 1` with the effect `e`. -/
structure GuardPhase (ph : Phase) (e : State → State) : Prop where
  busy : ph ≠ .idle
  count {x : Inputs} {s : State} (hr : x.rst = false) (hp : s.phase = ph) (hg : s.gt ≠ 1) :
    tick x s = .next { s with gt := s.gt - 1 }
  finish {x : Inputs} {s : State} (hr : x.rst = false) (hp : s.phase = ph) (hg : s.gt = 1) : tick x s = .next (e s)

theorem guardPhase_pre : GuardPhase .pre fun s => { s with phase := .write, gt := 0 } where
  busy := by decide
  count hr hp hg := (tick_pre hr hp).trans (congrArg _ (preTick_count hg))
  finish hr hp hg := (tick_pre hr hp).trans (congrArg _ (preTick_end hg))

theorem guardPhase_post : GuardPhase .post endSession where
  busy := by decide
  count hr hp hg := (tick_post hr hp).trans (congrArg _ (postTick_count hg))
  finish hr hp hg := (tick_post hr hp).trans (congrArg _ (postTick_end hg))

section Guard

variable {ph : Phase} {e : State → State} (hgp : GuardPhase ph e) (hp : s.phase = ph) (hg : s.gt = n)
  (hq : NextSamples (·.rst = false) n s.inq)
include hgp hp hg hq

/-- From `GT = n`, `k < n` ticks count down by `k`. -/
theorem GuardPhase.run_count (hk : k < n) : run k s = .next { s with gt := n - k, inq := s.inq.drop k } := by
  have hsteps : ∀ j, j < n - 1 → step { s with gt := n - j, inq := s.inq.drop j }
      = .next { s with gt := n - (j + 1), inq := s.inq.drop (j + 1) } := fun j hj => by
    obtain ⟨x, hr, hstep⟩ := hq.step (s := { s with gt := n - j }) (by omega : j < n) (hp ▸ hgp.busy)
    rw [hstep]
    exact hgp.count hr hp (by simp only; omega)
  have hstart : { s with gt := n - 0, inq := s.inq.drop 0 } = s := by simp [← hg]
  simpa only [hstart] using
    run_of_steps (f := fun k => { s with gt := n - k, inq := s.inq.drop k }) hsteps (by omega : k ≤ n - 1)

/-- From `GT = n ≥ 1` the phase ends at the `n`-th tick. -/
theorem GuardPhase.run_finish (hn : 1 ≤ n) : run n s = .next (e { s with gt := 1, inq := s.inq.drop n }) := by
  obtain ⟨m, rfl⟩ : ∃ m, n = m + 1 := ⟨n - 1, by omega⟩
  obtain ⟨x, hr, hstep⟩ := hq.step (s := { s with gt := 1 }) (Nat.lt_succ_self m) (hp ▸ hgp.busy)
  have hlast := hgp.run_count hp hg hq (Nat.lt_succ_self m)
  rw [Nat.add_sub_cancel_left] at hlast
  rw [run_succ_last hlast, hstep]
  exact hgp.finish hr hp rfl

theorem GuardPhase.drives (hn : 1 ≤ n) (hd : s.de = true) : Drives n s (e { s with gt := 1, inq := s.inq.drop n }) :=
  ⟨fun _ hk => ⟨_, hgp.run_count hp hg hq hk, hp ▸ hgp.busy, hd⟩, hgp.run_finish hp hg hq hn⟩

end Guard

/-- Settles O26: PRE is a guard phase, and `TX.SEND` loads it with `PRE_TICKS`. -/
theorem preGuardCountsExactly : Obligations.PreGuardCountsExactly := by
  refine ⟨fun x s hr hp => ?tick, fun s n hp hg hn hl hr => ?phase, fun d s s0 hp h hl hr => ?session⟩
  case tick =>
    exact ⟨chValid_of_phase_ne_write (by simp [hp]), guardPhase_pre.finish hr hp, guardPhase_pre.count hr hp⟩
  case phase =>
    exact ⟨fun _ => guardPhase_pre.run_count hp hg ⟨hl, hr⟩,
      guardPhase_pre.run_finish hp hg ⟨hl, hr⟩ hn⟩
  case session =>
    obtain rfl := exec_txSend_idle hp h
    exact ⟨fun k hk => ⟨_, guardPhase_pre.run_count rfl rfl ⟨hl, hr⟩ hk, rfl, rfl,
        chValid_of_phase_ne_write (by simp)⟩,
      _, guardPhase_pre.run_finish rfl rfl ⟨hl, hr⟩ Config.one_le_preTicks, rfl, rfl⟩

/-- Settles O33: POST is a guard phase, and the drained channel loads it with `POST_TICKS`. -/
theorem postGuardCountsExactly : Obligations.PostGuardCountsExactly := by
  refine ⟨fun x s hr hp => ?tick, fun s n hp hg hn hl hr => ?phase, fun x s hx hp hf hi hl hr => ?session⟩
  case tick =>
    exact ⟨chValid_of_phase_ne_write (by simp [hp]), guardPhase_post.finish hr hp, guardPhase_post.count hr hp⟩
  case phase =>
    exact ⟨fun _ => guardPhase_post.run_count hp hg ⟨hl, hr⟩,
      guardPhase_post.run_finish hp hg ⟨hl, hr⟩ hn⟩
  case session =>
    refine ⟨_, (tick_flush hx hp).trans (congrArg _ (flushTick_drained hf hi)), fun k hk => ?_, ?_⟩
    · exact ⟨_, guardPhase_post.run_count rfl rfl ⟨hl, hr⟩ hk, rfl, rfl⟩
    · exact ⟨_, guardPhase_post.run_finish rfl rfl ⟨hl, hr⟩ Config.one_le_postTicks, rfl, rfl, rfl, rfl, rfl, rfl⟩

/-! ## A channel that withholds (R183) -/

theorem stalling_iff {x : Inputs} : stalling x = true ↔ x.rst = false ∧ x.chFault = false ∧ x.chReady = false := by
  simp [stalling, and_assoc]

theorem undrained_iff {x : Inputs} : undrained x = true ↔ x.rst = false ∧ x.chFault = false ∧ x.chIdle = false := by
  simp [undrained, and_assoc]

/-- Without `ch_ready` each WRITE tick leaves all but the queue of samples as it is. -/
theorem run_stalling (hp : s.phase = .write) (hc : s.txcnt ≠ s.pbLen) (hq : NextSamples (stalling · = true) n s.inq) :
    run n s = .next { s with inq := s.inq.drop n } := by
  refine run_of_steps (f := fun k => { s with inq := s.inq.drop k }) (fun k hk => ?_) le_rfl
  obtain ⟨x, hx, hstep⟩ := hq.step (s := s) hk (by simp [hp])
  obtain ⟨hr, hf, hy⟩ := stalling_iff.1 hx
  rw [hstep]
  exact tick_notReady hr hp hf hc hy

/-- Without drain and without a bound each FLUSH tick leaves the state as it is. -/
theorem foldl_flushTick_undrained {P : Params} (hP : P.flushTmo = 0) {xs : List Inputs} (hx : ∀ x ∈ xs, undrained x = true) :
    xs.foldl (fun u x => flushTick P x u) s = s := by
  induction xs with
  | nil => rfl
  | cons x xs ih =>
    obtain ⟨hx, hxs⟩ := List.forall_mem_cons.1 hx
    obtain ⟨-, hf, hi⟩ := undrained_iff.1 hx
    rw [List.foldl_cons, flushTick_wait hf hi hP, ih hxs]

/-- Settles O36: each of the ticks leaves the state as it is. -/
theorem stuckWhileChannelWithholds : Obligations.StuckWhileChannelWithholds :=
  ⟨fun _ _ hp hc hl hx => run_stalling hp hc ⟨hl, hx⟩, fun _ _ _ _ hP hx => foldl_flushTick_undrained hP hx,
    fun _ _ hp hr => tick_flush hr hp⟩

/-! ## The shortest session (R170) -/

theorem cooperative_iff {x : Inputs} :
    cooperative x = true ↔ x.rst = false ∧ x.chFault = false ∧ x.chReady = true ∧ x.chIdle = true := by
  simp [cooperative, and_assoc]

/-- The state after `k` byte transfers from `s`, where none was made before. -/
def afterTransfers (s : State) (k : Nat) : State :=
  { s with txcnt := BitVec.ofNat 9 k, taken := s.taken ++ (validBytes s).take k, inq := s.inq.drop k }

/-- With a channel that is always ready, WRITE transfers a byte at each tick. -/
theorem drives_write (hp : s.phase = .write) (hd : s.de = true) (hc : s.txcnt = 0#9) (hl : s.pbLen.toNat ≤ pbCap)
    (hq : NextSamples (cooperative · = true) s.pbLen.toNat s.inq) :
    Drives s.pbLen.toNat s { s with txcnt := s.pbLen, taken := s.taken ++ validBytes s, inq := s.inq.drop s.pbLen.toNat } := by
  have hsteps : ∀ k, k < s.pbLen.toNat → step (afterTransfers s k) = .next (afterTransfers s (k + 1)) := fun k hk => by
    have hkn : (BitVec.ofNat 9 k).toNat = k := Nat.mod_eq_of_lt (hk.trans s.pbLen.isLt)
    have hlt : BitVec.ofNat 9 k < s.pbLen := BitVec.lt_def.2 (hkn.symm ▸ hk)
    obtain ⟨x, hx, hstep⟩ := hq.step (s := afterTransfers s k) hk (by simp [afterTransfers, hp])
    obtain ⟨hr, hf, hy, -⟩ := cooperative_iff.1 hx
    have htick := tick_taken (s := { afterTransfers s k with inq := s.inq.drop (k + 1) }) hr hp hf hlt hl hy
    refine hstep.trans (htick.trans (congrArg _ ?_))
    simp only [afterTransfers, hkn, validBytes, Memory.take_bytesFrom_succ _ hk, Nat.zero_add, List.append_assoc,
      BitVec.ofNat_add]
  have h0 : afterTransfers s 0 = s := by simp [afterTransfers, ← hc]
  have hn : afterTransfers s s.pbLen.toNat
      = { s with txcnt := s.pbLen, taken := s.taken ++ validBytes s, inq := s.inq.drop s.pbLen.toNat } := by
    simp [afterTransfers, List.take_of_length_le]
  have hdrives := Drives.of_steps hsteps fun k => ⟨by simp [afterTransfers, hp], hd⟩
  rwa [h0, hn] at hdrives

/-- With a channel that is drained and does not fail, the hand-over and FLUSH take one tick each. -/
theorem drives_drain (hp : s.phase = .write) (hd : s.de = true) (hc : s.txcnt = s.pbLen)
    (hq : NextSamples (cooperative · = true) (1 + 1) s.inq) :
    Drives (1 + 1) s { s with phase := .post, gt := Config.params.postTicks, inq := s.inq.drop (1 + 1) } := by
  rw [← List.drop_drop]
  obtain ⟨hq1, hq2⟩ := NextSamples.add_iff.1 hq
  have hwrite : Drives 1 s { s with phase := .flush, gt := Config.params.flushTmo, inq := s.inq.drop 1 } :=
    .of_tick (by simp [hp]) hd hq1 fun x hx => by
      obtain ⟨hr, hf, -⟩ := cooperative_iff.1 hx
      exact tick_handOver hr hp hf hc
  refine hwrite.trans (.of_tick (by simp) hd hq2 fun x hx => ?_)
  obtain ⟨hr, hf, -, hi⟩ := cooperative_iff.1 hx
  rw [tick_flush hr rfl, flushTick_drained hf hi]

/-- Settles O35: PRE, `PB_LEN` transfers, the hand-over and FLUSH, and POST, one after the other. -/
theorem shortestSessionLength : Obligations.ShortestSessionLength := by
  rintro d s s0 n hs hp h rfl hl hx
  obtain rfl := exec_txSend_idle hp h
  have hcooperative : NextSamples (cooperative · = true) _ s.inq := ⟨hl, hx⟩
  simp only [NextSamples.add_iff, ← List.drop_drop] at hcooperative ⊢
  obtain ⟨⟨⟨hqpre, hqwrite⟩, hqdrain⟩, hqpost⟩ := hcooperative
  have hnoReset : ∀ x, cooperative x = true → x.rst = false := fun x hx => (cooperative_iff.1 hx).1
  have hpre := guardPhase_pre.drives (s := startSession Config.params s) rfl rfl (hqpre.mono hnoReset)
    Config.one_le_preTicks rfl
  exact ((hpre.trans (drives_write rfl rfl rfl hs.pbLenLe hqwrite)).trans (drives_drain rfl rfl rfl hqdrain)).trans
    (guardPhase_post.drives rfl rfl (hqpost.mono hnoReset) Config.one_le_postTicks rfl)

end Sys2Proof.Machine
end

section
/-! Whole sessions (42_transmit_sequencer.md): the bytes a session hands over (R163, R62) and the calls it shows (R180). -/

namespace Sys2Proof.Machine

variable {n : Nat} {x : Inputs} {s t u : State}

/-! ## The first step of a run -/

theorem run_succ_first (h : run (n + 1) u = .next t) : ∃ v, step u = .next v ∧ run n v = .next t := by
  rw [run] at h
  split at h
  next v hv => exact ⟨v, hv, h⟩
  next => cases h
  next => cases h

theorem run_succ_of_step {v : State} (h : step u = .next v) (n : Nat) : run (n + 1) u = run n v := by simp only [run, h]

/-! ## The states of a session -/

/-- `u` is a state of a session that `TX.SEND` started in `s`, or the one in which it ended without a reset: the buffer is as it
was, and the channel has taken the first `TXCNT` bytes of it in ascending index, all of them from FLUSH on. -/
structure SessionOf (s u : State) : Prop where
  inv   : Inv Config.params u
  pb    : u.pb = s.pb
  pbLen : u.pbLen = s.pbLen
  sent  : u.txcnt.toNat ≤ s.pbLen.toNat
  taken : u.taken = s.taken ++ (validBytes s).take u.txcnt.toNat
  complete : u.phase = .flush ∨ u.phase = .post ∨ (u.phase = .idle ∧ u.done = true ∧ u.err = false) → u.txcnt = s.pbLen

theorem SessionOf.start (hs : Inv Config.params s) : SessionOf s (startSession Config.params s) where
  inv := hs.startSession Config.one_le_preTicks
  pb := rfl
  pbLen := rfl
  sent := Nat.zero_le _
  taken := by simp
  complete := by simp

theorem SessionOf.setAgents (h : SessionOf s u) (q : List Inputs) (n : Nat) : SessionOf s { u with inq := q, draws := n } :=
  { h with inv := h.inv.setAgents q n u.pkts }

/-- A byte on offer is taken: one more of the buffer's bytes. -/
theorem SessionOf.transfer (h : SessionOf s u) (hp : u.phase = .write) (hc : u.txcnt < u.pbLen) (hi : u.txcnt.toNat < pbCap) :
    SessionOf s { u with taken := u.taken ++ [u.pb.byteAt u.txcnt.toNat], txcnt := u.txcnt + 1#9 } :=
  have hlt : u.txcnt.toNat < s.pbLen.toNat := h.pbLen ▸ BitVec.lt_def.1 hc
  { h with
    inv := h.inv.transfer hc hi _
    sent := (txcnt_succ_toNat hi).trans_le hlt
    taken := by
      simp only [h.taken, h.pb, txcnt_succ_toNat hi, validBytes, Memory.take_bytesFrom_succ _ hlt, Nat.zero_add,
        List.append_assoc]
    complete := by simp [hp] }

/-- A tick of a session is a reset, or leads to a state of the session again. -/
theorem SessionOf.tick (h : SessionOf s u) (hb : u.phase ≠ .idle) (ht : tick x u = .next t) :
    t = resetRegisters u ∨ SessionOf s t := by
  refine or_iff_not_imp_left.2 fun hreset => ?_
  have hinv := h.inv.tick ht
  cases tick_case ht with
  | reset => exact absurd rfl hreset
  | noCommand _ hp | command _ hp => exact absurd hp hb
  | notReady | flushWait => exact h
  | preCount | flushCount | postCount => exact { h with inv := hinv }
  | preEnd | writeFault | flushFault | timeout => exact { h with inv := hinv, complete := by simp }
  | handOver _ _ _ hc => exact { h with inv := hinv, complete := fun _ => hc.trans h.pbLen }
  | transfer _ hp _ _ hc hi => exact h.transfer hp hc hi
  | overrun _ _ _ _ hc => exact absurd (h.pbLen ▸ h.sent) (Nat.not_le.2 (BitVec.lt_def.1 hc))
  | drained _ hp => exact { h with inv := hinv, complete := fun _ => h.complete (.inl hp) }
  | postEnd _ hp => exact { h with inv := hinv, complete := fun _ => h.complete (.inr (.inl hp)) }

/-- So is each step. -/
theorem SessionOf.step (h : SessionOf s u) (hb : u.phase ≠ .idle) (ht : step u = .next t) :
    (t.phase = .idle ∧ t.done = false) ∨ SessionOf s t := by
  obtain ⟨x, q, n, hstep⟩ := step_busy u hb
  refine ((h.setAgents q n).tick hb (hstep ▸ ht)).imp_left ?_
  rintro rfl
  exact ⟨rfl, rfl⟩

/-- The session after any number of steps: cut off by a reset, or going on or ended in one of its own states. -/
theorem SessionOf.run (h : SessionOf s u) (hb : staysBusy n u) (ht : run n u = .next t) :
    (t.phase = .idle ∧ t.done = false) ∨ SessionOf s t := by
  induction n generalizing t with
  | zero => cases ht; exact .inr h
  | succ n ih =>
    obtain ⟨v, hv, hstep⟩ := run_succ_inv ht
    have hvb : v.phase ≠ .idle := hb n v (Nat.lt_succ_self n) hv
    rcases ih (fun k w hk => hb k w (hk.trans (Nat.lt_succ_self n))) hv with ⟨hvi, -⟩ | hvs
    · exact absurd hvi hvb
    · exact hvs.step hvb hstep

/-! ## The bytes of a session (R62, R163) -/

theorem SessionOf.take_complete (h : SessionOf s u)
    (hp : u.phase = .flush ∨ u.phase = .post ∨ (u.phase = .idle ∧ u.done = true ∧ u.err = false)) :
    (validBytes s).take u.txcnt.toNat = validBytes s :=
  List.take_of_length_le (by rw [validBytes_length, h.complete hp])

/-- Settles O30: after any number of steps the session is in one of its own states, unless a reset has cut it off. -/
theorem sessionTransfersInOrder : Obligations.SessionTransfersInOrder := by
  intro d n s s0 t hs hp hsend hrun hbusy
  obtain rfl := exec_txSend_idle hp hsend
  rcases (SessionOf.start hs).run hbusy hrun with ⟨hi, hd⟩ | ht
  · exact ⟨by simp [hi, hd], by simp [hi, hd]⟩
  · exact ⟨fun _ => ht.taken, fun hc => by rw [ht.taken, ht.take_complete hc]⟩

/-! ## The calls of a session (R180) -/

/-- The calls completed when a session that sends `bs` enters the phase, after the assertion of the direction. -/
def callsBefore (bs : List Byte) : Phase → List Call
  | .idle | .pre => []
  | .write => [.delay]
  | .flush => [.delay, .write bs]
  | .post => [.delay, .write bs, .flush]

theorem callsBefore_isPrefix (bs : List Byte) (ph : Phase) : callsBefore bs ph <+: [.delay, .write bs, .flush] := by
  cases ph <;> simp [callsBefore]

/-- The ways a session that sends `bs` ends in `t` (R179), each with its calls after the assertion of the direction. -/
inductive EndsWith (bs : List Byte) (t : State) : List Call → Prop where
  | normal (hd : t.done = true) (he : t.err = false) :
      EndsWith bs t [.delay, .write bs, .flush, .delay, .assertDirection false]
  | writeFault (hd : t.done = true) (he : t.err = true) (hc : t.cause = .writeFault) :
      EndsWith bs t [.delay, .writeRaising (bs.take t.txcnt.toNat), .assertDirection false]
  | flushFailure (hd : t.done = true) (he : t.err = true) (hc : t.cause ≠ .writeFault) :
      EndsWith bs t [.delay, .write bs, .flushRaising, .assertDirection false]
  | cutOff (hd : t.done = false) (he : t.err = false) (ph : Phase) :
      EndsWith bs t (callsBefore bs ph ++ [.assertDirection false])

/-- The last `TXCNT` bytes taken are those of this session. -/
theorem SessionOf.sessionBytes (h : SessionOf s u) : sessionBytes u = (validBytes s).take u.txcnt.toNat := by
  have hl : ((validBytes s).take u.txcnt.toNat).length = u.txcnt.toNat := by simp [h.sent]
  rw [Machine.sessionBytes, h.taken, List.length_append, hl, Nat.add_sub_cancel, List.drop_left]

/-- A reset releases the bus and shows nothing else. -/
theorem callsBetween_resetRegisters (hb : u.phase ≠ .idle) : callsBetween u (resetRegisters u) = [.assertDirection false] := by
  cases hp : u.phase with
  | idle => exact absurd hp hb
  | pre | write | flush | post => simp [callsBetween, hp]

/-- A tick with which the session goes on shows the call that separates the two phases, if any. -/
theorem SessionOf.callsBefore_tick (h : SessionOf s u) (hb : u.phase ≠ .idle) (ht : Machine.tick x u = .next t)
    (htb : t.phase ≠ .idle) :
    callsBefore (validBytes s) t.phase = callsBefore (validBytes s) u.phase ++ callsBetween u t := by
  have hs : SessionOf s t := (h.tick hb ht).resolve_left fun hr => htb (by simp [hr])
  cases tick_case ht with
  | handOver _ hp =>
    have hbytes := hs.sessionBytes.trans (hs.take_complete (.inl rfl))
    simp [callsBefore, callsBetween, hp, hbytes]
  | noCommand _ hp | command _ hp => exact absurd hp hb
  | reset | writeFault | flushFault | timeout | postEnd => simp at htb
  | preEnd _ hp | preCount _ hp | transfer _ hp | overrun _ hp | notReady _ hp | drained _ hp | flushCount _ hp
  | flushWait _ hp | postCount _ hp => simp [callsBefore, callsBetween, hp]

/-- A tick that ends the session shows the calls of one of the ways to end. -/
theorem SessionOf.endsWith_tick (h : SessionOf s u) (hb : u.phase ≠ .idle) (ht : Machine.tick x u = .next t)
    (hti : t.phase = .idle) :
    EndsWith (validBytes s) t (callsBefore (validBytes s) u.phase ++ callsBetween u t) := by
  cases tick_case ht with
  | reset => exact callsBetween_resetRegisters hb ▸ .cutOff rfl rfl u.phase
  | writeFault _ hp =>
    have hbytes : Machine.sessionBytes (raiseFault .writeFault x.chFcode u) = _ := h.sessionBytes
    simp only [callsBefore, callsBetween, hp, raiseFault_phase, raiseFault_err, if_true, hbytes]
    exact .writeFault rfl rfl rfl
  | flushFault _ hp | timeout _ hp =>
    simp only [callsBefore, callsBetween, hp, raiseFault_phase, raiseFault_err, if_true]
    exact .flushFailure rfl rfl (by simp)
  | postEnd _ hp =>
    simp only [callsBefore, callsBetween, hp, endSession_phase, endSession_done, if_true]
    exact .normal rfl (h.inv.busyClear hb).2
  | noCommand _ hp | command _ hp => exact absurd hp hb
  | preEnd | handOver | drained => simp at hti
  | preCount | transfer | overrun | notReady | flushCount | flushWait | postCount => exact absurd hti hb

/-- The calls of a session from one of its states to its end. -/
theorem SessionOf.endsWith_run (h : SessionOf s u) (hu : u.phase ≠ .idle) (hb : staysBusy n u) (ht : Machine.run n u = .next t)
    (hti : t.phase = .idle) :
    EndsWith (validBytes s) t (callsBefore (validBytes s) u.phase ++ sessionCalls n u) := by
  induction n generalizing u with
  | zero => cases ht; exact absurd hti hu
  | succ n ih =>
    obtain ⟨v, hv, hrun⟩ := run_succ_first ht
    obtain ⟨x, q, m, hstep⟩ := step_busy u hu
    have hu' := h.setAgents q m
    have htick := hstep ▸ hv
    have hcalls : sessionCalls (n + 1) u = callsBetween u v ++ if v.phase = .idle then [] else sessionCalls n v := by
      simp only [sessionCalls, hv]
    by_cases hvi : v.phase = .idle
    · obtain rfl : n = 0 := by
        by_contra hn
        exact hb 1 v (by omega) ((run_succ_of_step hv 0).trans rfl) hvi
      cases hrun
      rw [hcalls, if_pos hvi, List.append_nil]
      exact hu'.endsWith_tick hu htick hvi
    · rw [hcalls, if_neg hvi, ← List.append_assoc]
      have hbefore : _ = callsBefore (validBytes s) u.phase ++ callsBetween u v := hu'.callsBefore_tick hu htick hvi
      rw [← hbefore]
      refine ih ((h.step hu hv).resolve_left fun hc => hvi hc.1) hvi (fun k w hk hw => ?_) hrun
      exact hb (k + 1) w (Nat.succ_lt_succ hk) ((run_succ_of_step hv k).trans hw)

/-- Settles O37: a session ends in one of four ways, and each of the four clauses names one. -/
theorem sessionCallsAreTheDocuments : Obligations.SessionCallsAreTheDocuments := by
  intro d n s s0 t hs hp hsend hrun hbusy hti
  obtain rfl := exec_txSend_idle hp hsend
  have hassert : callsBetween s (startSession Config.params s) = [.assertDirection true] := by simp [callsBetween, hp]
  have hend := (SessionOf.start hs).endsWith_run (by simp) hbusy hrun hti
  simp only [callsBefore, startSession_phase, List.nil_append] at hend
  rw [hassert]
  generalize sessionCalls n (startSession Config.params s) = calls at hend ⊢
  cases hend with
  | normal hd he => simp [hd, he]
  | writeFault hd he hc => simp [hd, he, hc]
  | flushFailure hd he hc => simp [hd, he, hc]
  | cutOff hd he ph =>
    exact ⟨by simp [hd], by simp [he], by simp [he], fun _ => ⟨_, callsBefore_isPrefix (validBytes s) ph, by simp⟩⟩

end Sys2Proof.Machine
end

section
/-! Status and system (43_status_system.md): the command port while it is not read (R210, R214), `ST.CLR` (R211) and the reserved
commands (R212). -/

namespace Sys2Proof.Machine

variable {x : Inputs} {s : State}

/-- R213, R214, R280: a tick of a session, and a reset tick, do not read the command port. -/
theorem tick_ignoresPort (h : s.phase ≠ .idle ∨ x.rst = true) (v : Bool) (w : CmdWord) :
    tick { x with cmdValid := v, cmd := w } s = tick x s := by
  rcases h with hb | hr
  · cases hp : s.phase with
    | idle => exact absurd hp hb
    | pre | write | flush | post => simp only [tick, hp, writeTick, flushTick]
  · rw [tick_rst hr, tick_rst (x := { x with cmdValid := v, cmd := w }) hr]

/-- Settles O43: a session's tick does not read the port, and the first IDLE tick after it does. -/
theorem commandsWaitDuringSession : Obligations.CommandsWaitDuringSession := by
  intro x s hb
  refine ⟨by simp [outputs, cmdReady, hb], tick_ignoresPort (.inl hb), fun w => ?_, fun w t y _ ht hr => ?_⟩
  · rw [exec_decodeCommand, accepted_busy _ hb]
  · exact tick_command ht hr rfl rfl

/-- Settles O47: `ST.CLR` is `dismissStatus`, and of the other commands no effect clears a sticky flag. -/
theorem stClrClearsSixFlags : Obligations.StClrClearsSixFlags := by
  refine ⟨fun d s => ⟨Laws.Format.stClr d rfl, accepted_idle dismissStatus, accepted_busy dismissStatus⟩, ?_⟩
  intro w s t h hcleared
  rw [exec_decodeCommand] at h
  rcases accepted_next h with ⟨-, rfl⟩ | ⟨-, rfl⟩
  · rcases hcleared with ⟨hs, ht⟩ | ⟨hs, ht⟩
    · exact (commandEffect_fOvf_cleared hs).1 ht
    · exact (commandEffect_fIll_cleared hs).1 ht
  · simp at hcleared

theorem exec_nop (d : Byte) (s : State) : exec (.nop d) s = .next s := by
  simp [exec, execNop, accepted]

/-- Settles O46: where the port is read, `NOP` answers the state; elsewhere it does not matter what stands on the port. -/
theorem nopChangesNothing : Obligations.NopChangesNothing := by
  refine ⟨fun d s => ⟨Laws.Format.nop d rfl, exec_nop d s⟩, fun x d s => ?_⟩
  by_cases h : s.phase ≠ .idle ∨ x.rst = true
  · exact (tick_ignoresPort h _ _).trans (tick_ignoresPort h false x.cmd).symm
  · obtain ⟨hp, hr⟩ : s.phase = .idle ∧ x.rst = false := by simpa using h
    calc tick { x with cmdValid := true, cmd := commandWord 0x0#4 d } s
      _ = exec (.nop d) s := tick_command hp hr rfl (congrArg Except.ok (Laws.Format.nop d rfl))
      _ = .next s := exec_nop d s
      _ = idleTick { x with cmdValid := false } s := (idleTick_noCommand rfl).symm
      _ = tick { x with cmdValid := false } s := (tick_idle (x := { x with cmdValid := false }) hr hp).symm

/-- Settles O48: each reserved code is accepted with the one effect `setIllegal`. -/
theorem reservedCommandSetsFIll : Obligations.ReservedCommandSetsFIll := by
  intro d s
  refine ⟨Laws.Format.reserved9 d rfl, Laws.Format.reservedA d rfl, Laws.Format.reservedB d rfl, Laws.Format.reservedC d rfl,
    Laws.Format.reservedD d rfl, Laws.Format.reservedE d rfl, Laws.Format.reservedF d rfl, fun hp => ?idle, fun hb => ?busy⟩
  case idle =>
    have hset := accepted_idle setIllegal hp
    exact ⟨hset, hset, hset, hset, hset, hset, hset⟩
  case busy =>
    have hkeep := accepted_busy setIllegal hb
    exact ⟨hkeep, hkeep, hkeep, hkeep, hkeep, hkeep, hkeep⟩

end Sys2Proof.Machine
end

section
/-! The host that runs a program (R96, R97, R213, R233): what it presents and how it goes on, by the next move of its program. -/

namespace Sys2Proof.Machine

variable {policy : HostPolicy} {rest : Operation} {later : List Operation} {h : HostProgram} {x : Inputs} {s : State}

/-! ## The next move of an operation -/

theorem operationMove_wait_busy (hb : s.phase ≠ .idle) : operationMove (.wait :: rest) s = .idle (.wait :: rest) := by
  simp [operationMove, busy, hb]

theorem operationMove_wait_idle (hp : s.phase = .idle) : operationMove (.wait :: rest) s = operationMove rest s := by
  simp [operationMove, busy, hp]

theorem operationMove_readStatus_err (he : s.err = true) : operationMove (.readStatus :: rest) s = .failed rest := by
  simp [operationMove, he]

theorem operationMove_readStatus_done (he : s.err = false) (hd : s.done = true) :
    operationMove (.readStatus :: rest) s = operationMove rest s := by simp [operationMove, he, hd]

theorem operationMove_readStatus_cutOff (he : s.err = false) (hd : s.done = false) (hp : s.phase = .idle) :
    operationMove (.readStatus :: rest) s = .cutOff rest := by simp [operationMove, busy, he, hd, hp]

/-- The program's move is that of its operation in hand, unless that is finished. -/
theorem programMove_of_operationMove {ops : Operation} {move : HostMove} (hm : operationMove ops s = move)
    (hf : move ≠ .finished) : programMove (ops :: later) s = (move, later) := by
  cases move with
  | finished => exact absurd rfl hf
  | present | idle | failed | cutOff => simp only [programMove, hm]

/-- A line the operation passes over is no line of the program either. -/
theorem programMove_skip {ops : Operation} (hm : operationMove ops s = operationMove rest s) :
    programMove (ops :: later) s = programMove (rest :: later) s := by simp only [programMove, hm]

/-! ## What the host presents -/

theorem hostSample_present {w : CmdWord} (hm : programMove h.operations s = (.present w rest, later)) :
    hostSample h x s = { x with cmdValid := true, cmd := w } := by simp [hostSample, hostPort, hm]

theorem hostSample_cmdValid_false {move : HostMove} (hm : programMove h.operations s = (move, later))
    (hn : ∀ w ops, move ≠ .present w ops) : (hostSample h x s).cmdValid = false := by
  cases move with
  | present w ops => exact absurd rfl (hn w ops)
  | idle | finished | failed | cutOff => simp [hostSample, hostPort, hm]

/-- The sample depends on the program by its next move alone. -/
theorem hostSample_congr {ops : List Operation} (hm : programMove h.operations s = programMove ops s) :
    hostSample h x s = hostSample { h with operations := ops } x s := by simp only [hostSample, hostPort, hm]

/-! ## How the host goes on -/

theorem hostNext_present {w : CmdWord} (hm : programMove h.operations s = (.present w rest, later)) :
    hostNext policy h x s = holdOn policy h x.rst (if cmdReady s && !x.rst then rest else .command w :: rest) later := by
  simp only [hostNext, hm]

theorem hostNext_idle (hm : programMove h.operations s = (.idle rest, later)) :
    hostNext policy h x s = holdOn policy h x.rst rest later := by simp only [hostNext, hm]

theorem hostNext_failed (hm : programMove h.operations s = (.failed rest, later)) :
    hostNext policy h x s = meet policy h (.failed (transportError s)) rest later := by simp only [hostNext, hm]

theorem hostNext_cutOff (hm : programMove h.operations s = (.cutOff rest, later)) :
    hostNext policy h x s = meet policy h .cutOff rest later := by simp only [hostNext, hm]

/-- How the host goes on depends on the program by its next move, and on what has broken into it. -/
theorem hostNext_congr {ops : List Operation} (hm : programMove h.operations s = programMove ops s) :
    hostNext policy h x s = hostNext policy { h with operations := ops } x s := by
  simp only [hostNext, hm]
  rfl

theorem holdOn_noReset {ops : Operation} : holdOn policy h false ops later = { h with operations := ops :: later } := rfl

theorem holdOn_reset {ops : Operation} : holdOn policy h true ops later = meet policy h .reset ops later := rfl

/-- Log entry 28: at a reset the reference reading holds on to its program. -/
theorem meet_reference_reset {ops : Operation} (ho : h.operations = ops :: later) :
    meet referencePolicy h .reset ops later = { h with events := h.events ++ [.reset] } := by
  simp [meet, referencePolicy, ho]

/-- R233: at a failure, or where reset has cut it off, the operation in hand ends in the reference reading. -/
theorem meet_reference_ends {e : HostEvent} (he : e ≠ .reset) (ops : Operation) :
    meet referencePolicy h e ops later = ⟨later, h.events ++ [e]⟩ := by
  cases e with
  | reset => exact absurd rfl he
  | failed | cutOff => simp [meet, referencePolicy]

/-! ## The three lines of a program -/

/-- R213: a command that this tick does not accept stays. -/
theorem hostNext_command_held {w : CmdWord} (ho : h.operations = (.command w :: rest) :: later)
    (hn : s.phase ≠ .idle ∨ x.rst = true) : hostNext policy h x s = holdOn policy h x.rst (.command w :: rest) later := by
  have hnot : (cmdReady s && !x.rst) = false := by
    rcases hn with hb | hr
    · simp [cmdReady, hb]
    · simp [hr]
  rw [hostNext_present (by rw [ho]; rfl), hnot]
  rfl

/-- Settles O44: each line of a program has its moves, and each move its sample and its way on. -/
theorem hostHoldsCommandUntilAccepted : Obligations.HostHoldsCommandUntilAccepted := by
  intro policy rest later h x s
  refine ⟨fun w ho => ?command, fun ho => ⟨fun hb => ?waitBusy, fun hp => ?waitIdle⟩,
    fun ho => ⟨fun he => ?err, fun he hd => ?done, fun he hd hp => ?cutOff⟩⟩
  case command =>
    have hmove : programMove h.operations s = (.present w rest, later) := by rw [ho]; rfl
    refine ⟨fun hn => ?_, fun hb hr => ?_, fun hr => ?_, fun hr => ?_, fun hp hr => ⟨?_, ?_⟩⟩
    · rw [hostSample_present hmove, tick_ignoresPort hn]
    · rw [hostNext_command_held ho (.inl hb), hr, holdOn_noReset, ← ho]
    · rw [hostNext_command_held ho (.inr hr), hr, holdOn_reset, meet]
    · rw [hostNext_command_held ho (.inr hr), hr, holdOn_reset, meet_reference_reset ho]
    · rw [hostSample_present hmove]
      exact tick_command hp hr rfl rfl
    · have hready : (cmdReady s && !x.rst) = true := by simp [cmdReady, hp, hr]
      rw [hostNext_present hmove, hready, hr, holdOn_noReset, if_pos rfl]
  case waitBusy =>
    have hmove : programMove h.operations s = (.idle (.wait :: rest), later) := by
      rw [ho, programMove_of_operationMove (operationMove_wait_busy hb) (by simp)]
    exact ⟨hostSample_cmdValid_false hmove (by simp), fun hr => by rw [hostNext_idle hmove, hr, holdOn_noReset, ← ho]⟩
  case waitIdle =>
    have hskip : programMove h.operations s = programMove (rest :: later) s := by
      rw [ho, programMove_skip (operationMove_wait_idle hp)]
    exact ⟨hostSample_congr hskip, hostNext_congr hskip⟩
  case err =>
    have hmove : programMove h.operations s = (.failed rest, later) := by
      rw [ho, programMove_of_operationMove (operationMove_readStatus_err he) (by simp)]
    refine ⟨hostSample_cmdValid_false hmove (by simp), ?_⟩
    rintro e rfl
    exact ⟨hostNext_failed hmove, (hostNext_failed hmove).trans (meet_reference_ends (by simp) rest)⟩
  case done =>
    have hskip : programMove h.operations s = programMove (rest :: later) s := by
      rw [ho, programMove_skip (operationMove_readStatus_done he hd)]
    exact ⟨hostSample_congr hskip, hostNext_congr hskip⟩
  case cutOff =>
    have hmove : programMove h.operations s = (.cutOff rest, later) := by
      rw [ho, programMove_of_operationMove (operationMove_readStatus_cutOff he hd hp) (by simp)]
    exact ⟨hostSample_cmdValid_false hmove (by simp), hostNext_cutOff hmove,
      (hostNext_cutOff hmove).trans (meet_reference_ends (by simp) rest)⟩

end Sys2Proof.Machine
end

section
/-! The host's encoder (44_host_encoder.md): `encode_packet` (R221, R222), the fragments of a message and the message they rebuild
(R224 to R226), `encode_message` and its way to the channel and to the queue (R223, R227, R228, R233), and the steps of the
diagnostic sequence (R231). -/

namespace Sys2Proof

/-! ## The checksum byte of a packet (R90, R221) -/

theorem docChecksum_toNat (bs : List Byte) : (docChecksum bs).toNat = (256 - docSum bs % 256) % 256 := by
  simp [docChecksum]

theorem docSum_packetCovered (t : Byte) {body : List Byte} (h : body.length ≤ 255) :
    docSum (packetCovered t body) = t.toNat + 0xC3 + 0xFF + 0xF5 + body.length + docSum body := by
  simp only [packetCovered, packetHeader, docSum_append, docSum_cons, docSum_nil, lengthByte_toNat h,
    BitVec.reduceToNat]
  omega

end Sys2Proof

namespace Sys2Proof.Machine

/-! ## encode_packet (R221, R222) -/

theorem encodePacket_fits (t : Byte) {body : List Byte} (h : body.length ≤ 255) :
    encodePacket t body = .ok (packetBytes t body) := if_pos h

theorem encodePacket_refused (t : Byte) {body : List Byte} (h : 255 < body.length) :
    encodePacket t body = .error .bodyTooLarge := if_neg (by omega)

/-- Settles O57: the packet is header, body and checksum byte, and the checksum byte completes the sum to 0 modulo 256. -/
theorem encodePacketInvariants : Obligations.EncodePacketInvariants := by
  intro t body
  refine ⟨fun h => ⟨packetBytes t body, docChecksum (packetCovered t body), encodePacket_fits t h, rfl, ?checksum,
    packetBytes_length t body, lengthByte_toNat h, ?sum⟩, encodePacket_refused t⟩
  case checksum => rw [docChecksum_toNat, docSum_packetCovered t h]
  case sum =>
    obtain ⟨-, -, hsum⟩ := Laws.Format.packet t body h
    exact hsum

/-! ## The fragments of a message (R224 to R226) -/

/-- The packets of the message's fragments, in order. -/
def messageFragments (m : List Byte) : List Packet := (List.range (fragmentCount m.length)).map (fragmentPacket m)

theorem fragmentCount_eq (n : Nat) : fragmentCount n = (n + 11) / 12 := rfl

theorem messageFragments_length (m : List Byte) : (messageFragments m).length = (m.length + 11) / 12 := by
  simp [messageFragments, fragmentCount_eq]

/-- The text of a fragment stands between the eight bytes before it and the checksum byte. -/
theorem fragmentPacket_text (m : List Byte) (i : Nat) : ((fragmentPacket m i).drop 8).dropLast = fragmentText m i := by
  simp [fragmentPacket, packetBytes_eq_cons]

theorem fragmentPacket_length (m : List Byte) (i : Nat) : (fragmentPacket m i).length = 9 + (fragmentText m i).length := by
  simp only [fragmentPacket, packetBytes_length, List.length_append, List.length_cons, List.length_nil]
  omega

/-- R226: a fragment is 9 bytes and its text, of 1 to 12 bytes. -/
theorem fragmentPacket_size {m : List Byte} (hm : m.length ≤ 180) {p : Packet} (hp : p ∈ messageFragments m) :
    10 ≤ p.length ∧ p.length ≤ 21 := by
  obtain ⟨i, hi, rfl⟩ := List.mem_map.1 hp
  obtain ⟨-, -, hmin, hmax⟩ := messageFragmentsAreTheFragmentForm m i hm (List.mem_range.1 hi)
  rw [fragmentPacket_length]
  omega

theorem fragmentText_eq_drop_take (m : List Byte) (i : Nat) :
    fragmentText m i = (m.take (12 * (i + 1))).drop (12 * i) := by
  simp only [fragmentText, slice, fragmentSize, ← List.take_eq_take_min]

/-- The texts of the first `k` fragments are the first `12k` bytes of the message. -/
theorem flatten_fragmentTexts (m : List Byte) (k : Nat) :
    ((List.range k).map (fragmentText m)).flatten = m.take (12 * k) := by
  induction k with
  | zero => rfl
  | succ k ih =>
    have hprefix : m.take (12 * k) = (m.take (12 * (k + 1))).take (12 * k) := by
      rw [List.take_take, Nat.min_eq_left (by omega)]
    simp only [List.range_succ, List.map_append, List.flatten_append, ih, List.map_cons, List.map_nil, List.flatten_cons,
      List.flatten_nil, List.append_nil]
    rw [fragmentText_eq_drop_take, hprefix, List.take_append_drop]

/-- The text bytes of the fragments in order are the message (R225). -/
theorem messageFragments_rebuild (m : List Byte) :
    ((messageFragments m).map (fun p => (p.drop 8).dropLast)).flatten = m := by
  have htext : (fun p : Packet => (p.drop 8).dropLast) ∘ fragmentPacket m = fragmentText m :=
    funext (fragmentPacket_text m)
  rw [messageFragments, List.map_map, htext, flatten_fragmentTexts, fragmentCount_eq]
  exact List.take_of_length_le (by omega)

/-! ## encode_message (R223, R227, R228) -/

theorem terminatorPacket_eq : terminatorPacket = [0x54#8, 0xC3#8, 0xFF#8, 0xF5#8, 0x00#8, 0xF5#8] := by decide

/-- The packets of a message: its fragments and the terminator. -/
def messagePackets (m : List Byte) : List Packet := messageFragments m ++ [terminatorPacket]

theorem encodeMessage_fits {m : List Byte} (h : m.length ≤ 180) : encodeMessage m = .ok (messagePackets m) := if_pos h

theorem encodeMessage_refused {m : List Byte} (h : 180 < m.length) : encodeMessage m = .error .payloadTooLarge :=
  if_neg (Nat.not_le.2 h)

theorem sendMessageOps_refused {m : List Byte} (h : 180 < m.length) : sendMessageOps m = .error .payloadTooLarge :=
  if_neg (Nat.not_le.2 h)

/-! ## A packet sequence in the host's queue (R233) -/

theorem packetQueue_bytes (ps : List Packet) : (packetQueue ps).map (·.bytes) = ps := by
  cases ps with
  | nil => rfl
  | cons p rest => simp [packetQueue, Function.comp_def]

/-- Every packet of an operation but the first is sent only after the one before it. -/
theorem packetQueue_concat_follows (ps : List Packet) (p : Packet) :
    (packetQueue (ps ++ [p])).map (·.follows) = false :: List.replicate ps.length true := by
  cases ps with
  | nil => rfl
  | cons first rest => simp [packetQueue, Function.comp_def, List.replicate_succ']

theorem giveMessage_fits {m : List Byte} (h : m.length ≤ 180) (s : State) :
    giveMessage m s = .next { s with pkts := s.pkts ++ packetQueue (messagePackets m) } := by
  simp [giveMessage, encodeMessage_fits h, givePackets]

/-- Settles O58: the packets are the fragments and the terminator; the program and the queue are read off that list. -/
theorem encodeMessageIsComplete : Obligations.EncodeMessageIsComplete := by
  intro m s
  rw [← terminatorPacket_eq]
  refine ⟨fun h => ?fits, fun h => ?refused⟩
  case fits =>
    refine ⟨messageFragments m, encodeMessage_fits h, messageFragments_length m, messageFragments_rebuild m,
      fun p => fragmentPacket_size h, ?program, _, giveMessage_fits h s, rfl, packetQueue (messagePackets m), rfl,
      packetQueue_bytes _, packetQueue_concat_follows _ _⟩
    rw [transmitMessageOps, encodeMessage_fits h]
    rfl
  case refused =>
    have hrefused := encodeMessage_refused h
    exact ⟨hrefused, sendMessageOps_refused h, by rw [transmitMessageOps, hrefused]; rfl, by rw [giveMessage, hrefused]⟩

/-! ## The diagnostic sequence (R231, R232) -/

/-- The step of a text: its message packets and the delay of one second. -/
def diagnosticStep (text : List Byte) : DiagStep := ⟨messagePackets text, 1000⟩

/-- Where no text is refused, each has its step. -/
theorem diagnosticSteps_fits {texts : List (List Byte)} (h : ∀ text ∈ texts, text.length ≤ 180) :
    diagnosticSteps texts = .ok (texts.map diagnosticStep) := by
  induction texts with
  | nil => rfl
  | cons text rest ih =>
    obtain ⟨htext, hrest⟩ := List.forall_mem_cons.1 h
    rw [diagnosticSteps, encodeMessage_fits htext, ih hrest]
    rfl

theorem diagnosticTexts_length (banner : List Byte) (first : Nat) : (diagnosticTexts banner first).length = 20 := by
  simp [diagnosticTexts]

/-- Settles O60: step `k` is the step of text `k`, and there are 20 texts. -/
theorem diagnosticSequenceHasTwentySteps : Obligations.DiagnosticSequenceHasTwentySteps := by
  intro banner first h
  refine ⟨_, diagnosticSteps_fits h, by rw [List.length_map, diagnosticTexts_length], fun k st hst => ?_⟩
  rw [List.getElem?_map] at hst
  obtain ⟨text, htext, rfl⟩ := Option.map_eq_some_iff.1 hst
  exact ⟨rfl, text, htext, encodeMessage_fits (h text (List.mem_of_getElem? htext))⟩

end Sys2Proof.Machine
end

section
/-! Session faults (60_exceptions.md R251 to R254): the ticks that raise one, what they leave, and the flush timeout after exactly
`FLUSH_TMO` ticks. -/

namespace Sys2Proof.Machine

variable {P : Params} {x : Inputs} {s t : State} {c : Cause} {i : Byte}

/-! ## The ticks that raise a fault -/

/-- R251 to R253: the tick with inputs `x` at `s` raises a session fault, with this cause and information byte. -/
inductive RaisesFault (x : Inputs) (s : State) : Cause → Byte → Prop where
  | write (hr : x.rst = false) (hp : s.phase = .write) (hf : x.chFault = true) : RaisesFault x s .writeFault x.chFcode
  | flush (hr : x.rst = false) (hp : s.phase = .flush) (hf : x.chFault = true) : RaisesFault x s .flushFault x.chFcode
  | timeout (hr : x.rst = false) (hp : s.phase = .flush) (hf : x.chFault = false) (hi : x.chIdle = false)
      (hn : Config.params.flushTmo ≠ 0) (hg : s.gt = 1) : RaisesFault x s .flushTimeout 0x00#8

theorem exists_raisesFault_iff : (∃ c i, RaisesFault x s c i) ↔ x.rst = false ∧
    ((s.phase = .write ∧ x.chFault = true) ∨ (s.phase = .flush ∧ x.chFault = true) ∨
     (s.phase = .flush ∧ x.chFault = false ∧ x.chIdle = false ∧ Config.params.flushTmo ≠ 0 ∧ s.gt = 1)) := by
  constructor
  · rintro ⟨_, _, ⟨hr, hp, hf⟩ | ⟨hr, hp, hf⟩ | ⟨hr, hp, hf, hi, hn, hg⟩⟩
    · exact ⟨hr, .inl ⟨hp, hf⟩⟩
    · exact ⟨hr, .inr (.inl ⟨hp, hf⟩)⟩
    · exact ⟨hr, .inr (.inr ⟨hp, hf, hi, hn, hg⟩)⟩
  · rintro ⟨hr, ⟨hp, hf⟩ | ⟨hp, hf⟩ | ⟨hp, hf, hi, hn, hg⟩⟩
    · exact ⟨_, _, .write hr hp hf⟩
    · exact ⟨_, _, .flush hr hp hf⟩
    · exact ⟨_, _, .timeout hr hp hf hi hn hg⟩

/-- R254: such a tick performs the FAULT procedure. -/
theorem RaisesFault.tick (h : RaisesFault x s c i) : tick x s = .next (raiseFault c i s) := by
  cases h with
  | write hr hp hf => exact (tick_write hr hp).trans (writeTick_fault hf)
  | flush hr hp hf => exact (tick_flush hr hp).trans (congrArg _ (flushTick_fault hf))
  | timeout hr hp hf hi hn hg => exact (tick_flush hr hp).trans (congrArg _ (flushTick_timeout hf hi hn hg))

/-- R160, R211: a command keeps `ERR` and `CAUSE` or clears them. -/
theorem commandEffect_errCause (j : Instr) (s : State) :
    ((commandEffect j s).err = s.err ∧ (commandEffect j s).cause = s.cause) ∨
    ((commandEffect j s).err = false ∧ (commandEffect j s).cause = .none) := by
  cases j with
  | txSend d | stClr d => exact .inr ⟨rfl, rfl⟩
  | pbPush d | pkPush d | pkFin d => exact .inl ⟨ifRoom_keeps State.err rfl rfl, ifRoom_keeps State.cause rfl rfl⟩
  | _ => exact .inl ⟨rfl, rfl⟩

/-- Everything a tick can do to `ERR` and `CAUSE`: it raises a fault, or keeps them, or clears them. -/
theorem tick_errCause (h : tick x s = .next t) :
    (∃ c i, RaisesFault x s c i ∧ t = raiseFault c i s) ∨ (t.err = s.err ∧ t.cause = s.cause) ∨
      (t.err = false ∧ t.cause = .none) := by
  cases tick_case h with
  | writeFault hr hp hf => exact .inl ⟨_, _, .write hr hp hf, rfl⟩
  | flushFault hr hp hf => exact .inl ⟨_, _, .flush hr hp hf, rfl⟩
  | timeout hr hp hf hi hn hg => exact .inl ⟨_, _, .timeout hr hp hf hi hn hg, rfl⟩
  | command => exact .inr (commandEffect_errCause _ s)
  | reset => exact .inr (.inr ⟨rfl, rfl⟩)
  | noCommand | preEnd | preCount | handOver | transfer | overrun | notReady | drained | flushCount | flushWait | postEnd
  | postCount => exact .inr (.inl ⟨rfl, rfl⟩)

/-- A tick at which `ERR` rises raises a fault. -/
theorem raisesFault_of_err (hs : s.err = false) (h : tick x s = .next t) (ht : t.err = true) :
    ∃ c i, RaisesFault x s c i ∧ t = raiseFault c i s := by
  rcases tick_errCause h with hraise | ⟨hk, -⟩ | ⟨hc, -⟩
  · exact hraise
  · simp [hk, hs] at ht
  · simp [hc] at ht

/-- Settles O40: `ERR` rises exactly at the ticks of `RaisesFault`, whose constructors fix the cause and the information byte. -/
theorem sessionFaultsAreExactlyThese : Obligations.SessionFaultsAreExactlyThese := by
  intro x s t hs h
  rw [← exists_raisesFault_iff]
  refine ⟨⟨fun ht => ?rises, fun ⟨c, i, hraise⟩ => ?raised⟩, fun ht => ?effect⟩
  case rises =>
    obtain ⟨c, i, hraise, -⟩ := raisesFault_of_err hs h ht
    exact ⟨c, i, hraise⟩
  case raised =>
    obtain rfl := Host.Outcome.next.inj (h.symm.trans hraise.tick)
    rfl
  case effect =>
    obtain ⟨c, i, hraise, rfl⟩ := raisesFault_of_err hs h ht
    refine ⟨c, i, rfl, ?_⟩
    cases hraise with
    | write _ hp => simp [hp]
    | flush _ hp hf | timeout _ hp hf => simp [hp, hf]

/-! ## The flush timeout (R253) -/

/-- FLUSH ticks without drain and fault count `GT` down, as long as it stays above 0. -/
theorem foldl_flushTick_count (hP : P.flushTmo ≠ 0) {xs : List Inputs} (hx : ∀ y ∈ xs, undrained y = true)
    (hg : xs.length < s.gt) : xs.foldl (fun u y => flushTick P y u) s = { s with gt := s.gt - xs.length } := by
  induction xs generalizing s with
  | nil => rfl
  | cons y ys ih =>
    obtain ⟨hy, hys⟩ := List.forall_mem_cons.1 hx
    obtain ⟨-, hf, hi⟩ := undrained_iff.1 hy
    rw [List.length_cons] at hg ⊢
    rw [List.foldl_cons, flushTick_count hf hi hP (by omega), ih hys (by simp only; omega), Nat.sub_sub, Nat.add_comm 1]

/-- The tick after those that count `GT` down to 1 times out. -/
theorem foldl_flushTick_timeout (hP : P.flushTmo ≠ 0) {xs : List Inputs} (hx : ∀ y ∈ xs, undrained y = true)
    (hg : s.gt = xs.length) (hn : 1 ≤ xs.length) :
    xs.foldl (fun u y => flushTick P y u) s = raiseFault .flushTimeout 0x00#8 s := by
  obtain rfl | ⟨ys, y, rfl⟩ := List.eq_nil_or_concat' xs
  · simp at hn
  · obtain ⟨hys, hy⟩ := List.forall_mem_append.1 hx
    obtain ⟨-, hf, hi⟩ := undrained_iff.1 (hy y (List.mem_singleton_self y))
    have hlen : s.gt = ys.length + 1 := hg.trans List.length_append
    have hcount := foldl_flushTick_count hP hys (s := s) (by omega)
    have hone : s.gt - ys.length = 1 := by omega
    rw [List.foldl_append, hcount]
    exact flushTick_timeout hf hi hP hone

/-- R164: without a bound no FLUSH tick records a timeout. -/
theorem flushTick_unbounded_cause (hP : P.flushTmo = 0) (hs : s.cause ≠ .flushTimeout) :
    (flushTick P x s).cause ≠ .flushTimeout := by
  cases hf : x.chFault with
  | true => simp [flushTick_fault hf]
  | false =>
    cases hi : x.chIdle with
    | true => rwa [flushTick_drained hf hi]
    | false => rwa [flushTick_wait hf hi hP]

/-- A tick after which `CAUSE` is the flush timeout found it there or is the FLUSH tick that raises it. -/
theorem tick_cause_flushTimeout (h : tick x s = .next t) (ht : t.cause = .flushTimeout) :
    s.cause = .flushTimeout ∨ (s.phase = .flush ∧ t = flushTick Config.params x s) := by
  rcases tick_errCause h with ⟨c, i, hraise, rfl⟩ | ⟨-, hk⟩ | ⟨-, hc⟩
  · cases hraise with
    | write | flush => simp at ht
    | timeout _ hp hf hi hn hg => exact .inr ⟨hp, (flushTick_timeout hf hi hn hg).symm⟩
  · exact .inl (hk.symm.trans ht)
  · simp [hc] at ht

/-- Settles O32: the hand-over loads `GT` with `FLUSH_TMO`, and each tick without drain counts it down; the last one times out. -/
theorem flushTimeoutAfterExactlyN : Obligations.FlushTimeoutAfterExactlyN := by
  refine ⟨fun P x xs s hp hf hc hl hn hx => ?bounded, fun P x s => flushTick_unbounded_cause,
    fun x s t => tick_cause_flushTimeout⟩
  case bounded =>
    have hP : P.flushTmo ≠ 0 := Nat.one_le_iff_ne_zero.1 hn
    refine ⟨_, writeTick_handOver hf hc, rfl, fun k hk => ?_, foldl_flushTick_timeout hP hx hl.symm (hl ▸ hn)⟩
    have hlen : (xs.take k).length = k := List.length_take_of_le (hl ▸ hk.le)
    rw [foldl_flushTick_count hP (fun y hy => hx y (List.mem_of_mem_take hy)) (hlen.trans_lt hk), hlen]

end Sys2Proof.Machine
end

section
/-! Reset (70_reset_and_hazards.md R280): what a tick with `rst = 1` leaves and shows. -/

namespace Sys2Proof.Machine

variable {s : State}

/-! ## The outputs in IDLE (R35) -/

theorem cmdReady_idle (hp : s.phase = .idle) : cmdReady s = true := decide_eq_true hp

theorem busy_idle (hp : s.phase = .idle) : busy s = false := decide_eq_false (not_not_intro hp)

theorem chValid_idle (hp : s.phase = .idle) : chValid s = false := chValid_of_phase_ne_write (by simp [hp])

theorem chData_noOffer (hv : chValid s = false) : chData s = 0x00#8 := if_neg (by simp [hv])

theorem chk_zeroSum (hs : s.sum = 0x00#8) : chk s = 0x00#8 := (congrArg neg8 hs).trans (by decide)

/-! ## The reset tick (R280) -/

theorem resetRegisters_reset : resetRegisters State.reset = State.reset := rfl

/-- Settles O50: a reset tick leads to `resetRegisters`, an IDLE state with `SUM = 0x00`, of which the reset state is a fixed point. -/
theorem resetTickAndValues : Obligations.ResetTickAndValues := by
  refine ⟨fun x s hr => ⟨tick_rst hr, fun t ht => ?outputs⟩, fun x hr => ?stays⟩
  case outputs =>
    obtain rfl : resetRegisters s = t := Host.Outcome.next.inj ((tick_rst hr).symm.trans ht)
    have hp : (resetRegisters s).phase = .idle := resetRegisters_phase s
    have hv : chValid (resetRegisters s) = false := chValid_idle hp
    exact ⟨cmdReady_idle hp, busy_idle hp, resetRegisters_de s, hv, chData_noOffer hv, resetRegisters_sum s,
      chk_zeroSum (resetRegisters_sum s)⟩
  case stays => rw [tick_rst hr, resetRegisters_reset]

end Sys2Proof.Machine
end
